-- ==== Sys2Proof/Word.lean ====
section
/-! DEFINITION. The word types of the block (00_scope.md R7, R9; 10_state.md R31, R34, R37). -/

namespace Sys2Proof

/-- One byte of memory, of a vector register or of an instruction. -/
abbrev Byte := BitVec 8

/-- The contents of a vector register, VLEN = 128 bits (R7, R31). -/
abbrev V128 := BitVec 128

/-- The contents of a general register, GRLEN = 64 bits (R7, R34). -/
abbrev Word64 := BitVec 64

/-- A memory address, ADDR_BITS = 64 (R7, R61); sums wrap modulo 2^64 (R62). -/
abbrev Addr := BitVec 64

/-- The condition code, 2 bits (R37). -/
abbrev CondCode := BitVec 2

/-- The number of a vector register, V0 to V31: 5 bits (R31, R96). -/
abbrev VReg := BitVec 5

/-- The number of a general register, R0 to R15: 4 bits (R34, R95). -/
abbrev GReg := BitVec 4

/-- A decoded 4-bit M field (R94, R112). -/
abbrev MField := BitVec 4

end Sys2Proof
end

