-- ==== Sys2Proof/Machine/Flags.lean ====
section
/-! DEFINITION. Every condition-code computation, and the condition test (10_state.md R37; 43_pack_unpack.md R233; 45_element_memory.md
R298; 46_predicate.md R320, R322). -/

namespace Sys2Proof.Machine

/-- `packcc(nsat, total)` (R233): 0 when no element saturated, 3 when every one did, else 1. -/
def packCC (nsat total : Nat) : CondCode := if nsat = 0 then 0#2 else if nsat = total then 3#2 else 1#2

/-- The CC of compare-high (R320): 0 when every element compares high, 3 when none does, else 1. -/
def compareCC (t total : Nat) : CondCode := if t = total then 0#2 else if t = 0 then 3#2 else 1#2

/-- The CC of LCBB (R298): 0 when the count is 16, else 3. -/
def blockCC (n : Nat) : CondCode := if n = 16 then 0#2 else 3#2

/-- `cond(m3)` (R113, R322): mask bit value 8 selects CC 0, 4 CC 1, 2 CC 2 and 1 CC 3. -/
def condHolds (m3 : MField) (cc : CondCode) : Bool := (m3 &&& (8#4 >>> cc.toNat)) != 0#4

end Sys2Proof.Machine
end

