-- ==== Sys2Proof/Config.lean ====
section
/-! DEFINITION. The block's implementation parameters (00_scope.md R7) and the free values of the points the
spec leaves open. A parameter with two values is plain data that State carries, so that every statement about
all states is a statement about every value of it (log entry 5). A free value is an opaque constant, applied to
the number of the draw: nothing can evaluate it (log entries 2, 8, 9 and 10, safe). The
rules whose text is general knowledge of z/Architecture are UNVERIFIED against it (log entry 17). -/

namespace Sys2Proof.Config

/-- VLL_TAIL (R296, D24, C1): what VLL leaves in the bytes beyond the loaded length. -/
inductive VllTail where
  | preserve  -- the source's rule, the default
  | zero      -- z/Architecture's
  deriving DecidableEq, Repr

/-- PKLS_SRC (R232, D25, C3): how VPKLS reads its source elements. -/
inductive PklsSrc where
  | signed    -- the source's "cross-sign", the default
  | unsigned  -- z/Architecture's
  deriving DecidableEq, Repr

/-- AVG_ROUND (R148, D26, C2): the rounding of VAVG and VAVGL. -/
inductive AvgRound where
  | floor   -- the source's rule, the default
  | halfUp  -- z/Architecture's
  deriving DecidableEq, Repr

/-- UNWRITTEN_READ (R44, D20): what reading a register or the CC that holds no value does. -/
inductive UnwrittenRead where
  | fault  -- the step ends with Refused(unwritten-read), the default
  | draw   -- the read returns an unconstrained value, drawn afresh at each read
  deriving DecidableEq, Repr

/-- LOC_FALSE_ACCESS (R325, D32): whether a load/store-on-condition whose condition is false may raise ACCESS. -/
inductive LocFalseAccess where
  | may    -- the choice is unconstrained, the default
  | never
  deriving DecidableEq, Repr

/-- The two-valued parameters of R7, fixed for a whole run (R390). -/
structure Params where
  vllTail : VllTail
  pklsSrc : PklsSrc
  avgRound : AvgRound
  unwrittenRead : UnwrittenRead
  locFalseAccess : LocFalseAccess
  deriving DecidableEq, Repr

/-- The default of every parameter, as R7 states it. -/
def Params.default : Params :=
  { vllTail := .preserve, pklsSrc := .signed, avgRound := .floor, unwrittenRead := .fault,
    locFalseAccess := .may }

/-- The value that draw number `n` gives a vector register that holds no value, under UNWRITTEN_READ = DRAW
(R44). A free value: no body. -/
opaque unwrittenVR (n : Nat) : V128

/-- The value that draw number `n` gives a general register that holds no value (R44). A free value. -/
opaque unwrittenGR (n : Nat) : Word64

/-- The value that draw number `n` gives the CC when it holds no value (R44). A free value. -/
opaque unwrittenCC (n : Nat) : CondCode

/-- Whether draw number `n` makes a false-condition load/store-on-condition raise ACCESS for a refused byte of
its operand, under LOC_FALSE_ACCESS = MAY (R325). A free value. -/
opaque locFalseFaults (n : Nat) : Bool

/-- PARTIAL_STORE (R357): whether draw number `n` leaves its byte, which lies before the refused byte of a
faulting store, written. A free value. -/
opaque partialStore (n : Nat) : Bool

end Sys2Proof.Config
end

