-- ==== Sys2Proof/Machine/Lanes.lean ====
section
/-! DEFINITION. Elements of a 128-bit value and the generic lane operators (00_scope.md R8, R9, R11, R15 to R18; 30_encoding.md
R100; 41_lane_arith.md R148). Elements are read as exact integers and narrowed once, when they are written. -/

namespace Sys2Proof.Machine

/-- The element width in bytes of an element-size code 0 to 4 (R100). -/
def width (code : MField) : Nat := 2 ^ code.toNat

/-- `count(w)`, the number of elements of width `w` bytes (R11). -/
def elemCount (w : Nat) : Nat := 16 / w

/-- `E(v, w, i)`: the field v[127 - 8wi : 128 - 8w(i+1)], element 0 the most significant (R11). -/
def elem (v : V128) (w i : Nat) : BitVec (8 * w) := v.extractLsb' (128 - 8 * w * (i + 1)) (8 * w)

/-- `setE(v, w, i, x)`: `v` with element `i` replaced by `x` (R11). -/
def setElem (v : V128) (w i : Nat) (x : BitVec (8 * w)) : V128 :=
  (v &&& ~~~((BitVec.allOnes (8 * w)).setWidth 128 <<< (128 - 8 * w * (i + 1)))) |||
    (x.setWidth 128 <<< (128 - 8 * w * (i + 1)))

/-- `Eu(v, w, i) = u(E(v, w, i))` (R9, R11). -/
def elemU (v : V128) (w i : Nat) : Int := (elem v w i).toNat

/-- `Es(v, w, i) = s(E(v, w, i))` (R9, R11). -/
def elemS (v : V128) (w i : Nat) : Int := (elem v w i).toInt

/-- Whether an instruction reads its elements as two's-complement or unsigned integers (R17). -/
inductive Sign where
  | signed
  | unsigned
  deriving DecidableEq, Repr

/-- Element `i` as an integer, read per `sg` (R17). -/
def readElem (sg : Sign) (v : V128) (w i : Nat) : Int :=
  match sg with
  | .signed => elemS v w i
  | .unsigned => elemU v w i

/-- The element ranges of R16. -/
inductive ElementRange where
  | full | low | high | even | odd
  deriving DecidableEq, Repr

/-- `from` of R16's table, for `max` elements. -/
def rangeFrom : ElementRange → Nat → Nat
  | .full, _ => 0
  | .low, max => max / 2
  | .high, _ => 0
  | .even, _ => 0
  | .odd, _ => 1

/-- `to`, exclusive, of R16's table. -/
def rangeTo : ElementRange → Nat → Nat
  | .full, max => max
  | .low, max => max
  | .high, max => max / 2
  | .even, max => max
  | .odd, max => max

/-- `step` of R16's table. -/
def rangeStep : ElementRange → Nat
  | .full | .low | .high => 1
  | .even | .odd => 2

/-- The source indices `from, from + step, ...` strictly below `to` (R16). -/
def rangeIndices (rg : ElementRange) (max : Nat) : List Nat :=
  (List.range' (rangeFrom rg max) max (rangeStep rg)).filter (· < rangeTo rg max)

/-- Whether result elements are as wide as the operands' or twice as wide (R17). -/
inductive OutWidth where
  | same
  | widened
  deriving DecidableEq, Repr

/-- The result element width (R17). -/
def outBytes (ow : OutWidth) (w : Nat) : Nat :=
  match ow with
  | .same => w
  | .widened => 2 * w

/-- `r` with elements `k`, `k + 1`, ... replaced by `xs`: the loop of every lane rule (R17). -/
def fillElems (w : Nat) : Nat → V128 → List (BitVec (8 * w)) → V128
  | _, r, [] => r
  | k, r, x :: xs => fillElems w (k + 1) (setElem r w k x) xs

/-- The value whose elements are `xs`, from element 0 on, over zeros (R17). -/
def ofElems (w : Nat) (xs : List (BitVec (8 * w))) : V128 := fillElems w 0 0#128 xs

/-- `apply(op, a, b, w, sign, range, outWidth)` (R17). -/
def laneApply (op : Int → Int → Int) (a b : V128) (w : Nat) (sg : Sign) (rg : ElementRange) (ow : OutWidth) : V128 :=
  ofElems (outBytes ow w) <| (rangeIndices rg (elemCount w)).map fun i =>
    BitVec.ofInt (8 * outBytes ow w) (op (readElem sg a w i) (readElem sg b w i))

/-- The unary lane loop over a range, with its result width: `apply1` (R18) for `full` and `same`, and the widening
instructions of 43_pack_unpack.md for `high` or `low` and `widened`. -/
def laneApply1 (op : Int → Int) (a : V128) (w : Nat) (sg : Sign) (rg : ElementRange) (ow : OutWidth) : V128 :=
  ofElems (outBytes ow w) <| (rangeIndices rg (elemCount w)).map fun i =>
    BitVec.ofInt (8 * outBytes ow w) (op (readElem sg a w i))

/-! ### Lane functions -/

/-- The average of two integers (R148): floored, or rounded half up, as AVG_ROUND says. -/
def avg (round : Config.AvgRound) (x y : Int) : Int :=
  match round with
  | .floor => (x + y) / 2
  | .halfUp => (x + y + 1) / 2

/-- The high 8w bits of the exact product (R156): `floor(x * y / 2^(8w))`. -/
def mulHigh (w : Nat) (x y : Int) : Int := (x * y) / 2 ^ (8 * w)

/-- The mask of compare-high: all ones where x > y, else 0 (R320). -/
def highMask (w : Nat) (x y : Int) : Int := if x > y then 2 ^ (8 * w) - 1 else 0

/-- The number of 1 bits of an unsigned `n`-bit integer (R203). -/
def popcount (n : Nat) (x : Int) : Int := ((List.range n).filter fun i => x.toNat.testBit i).length

/-- `clz_w` of an unsigned `n`-bit integer, n = 8w (R204). -/
def countLeadingZeros (n : Nat) (x : Int) : Int := if x = 0 then n else n - 1 - x.toNat.log2

/-- `ctz_w` of an unsigned `n`-bit integer, n = 8w (R205): the position of its lowest 1 bit, `n` for zero. -/
def countTrailingZeros (n : Nat) (x : Int) : Int :=
  ((List.range n).find? fun i => x.toNat.testBit i).getD n

/-- `sat(x, k, n)` as an integer (R15). -/
def sat (x : Int) (k : Sign) (n : Nat) : Int :=
  match k with
  | .signed => min (max x (-2 ^ (n - 1))) (2 ^ (n - 1) - 1)
  | .unsigned => min (max x 0) (2 ^ n - 1)

/-- `saturated(x, k, n)` (R15). -/
def saturated (x : Int) (k : Sign) (n : Nat) : Bool := sat x k n != x

/-- The elements of two registers one after the other, V2's first: the pack order `src(j)` (R228). -/
def packSources (sg : Sign) (a b : V128) (w : Nat) : List Int :=
  (List.range (elemCount w)).map (readElem sg a w) ++ (List.range (elemCount w)).map (readElem sg b w)

end Sys2Proof.Machine
end

