-- ==== Sys2Proof/Syntax.lean ====
section
/-! DEFINITION. The 54 instructions of the block (00_scope.md R4, 30_encoding.md R116): one constructor of `Instr`
for each row of opcode_table.json, with the operands in the order of the assembler syntax (R120). -/

namespace Sys2Proof

/-- The instruction names, in the opcode map's order (R116). -/
inductive Mnemonic where
  | vgeg | vgef | vsceg | vscef | lcbb | vll | vstl | vrepi | vrep
  | vpopct | vctz | vclz
  | vmrl | vmrh | vn | vnc | vo | vno | vx | vpdi | vperm | vsel
  | vpk | vpkls | vpks
  | vmlh | vml | vmh | vmle | vmlo | vme | vmo
  | vupll | vuplh | vupl | vuph | vlc | vlp
  | vavgl | vavg | va | vs | vchl | vch | vmnl | vmxl | vmn | vmx
  | locg | stocg | loc | stoc | locgr | locr
  deriving DecidableEq, Repr

/-- The fields a SPECIFICATION fault can name (60_exceptions.md R351, R354). -/
inductive FieldName where
  | m3 | m4 | i2
  deriving DecidableEq, Repr

/-- A decoded instruction. `v1`..`v4` are vector registers, `r1`..`r3` general registers, `b2` a base and `x2` an
index (0 names none, R10), `d2` a displacement (12 bits unsigned, R109; 20 bits signed for the RSY-b format,
R110), `i2` an immediate (R111), and `m3`, `m4`, `m5` M fields (R100, R112, R113). -/
inductive Instr where
  -- 41_lane_arith.md
  | va (v1 v2 v3 : VReg) (m4 : MField)
  | vs (v1 v2 v3 : VReg) (m4 : MField)
  | vn (v1 v2 v3 : VReg)
  | vnc (v1 v2 v3 : VReg)
  | vo (v1 v2 v3 : VReg)
  | vno (v1 v2 v3 : VReg)
  | vx (v1 v2 v3 : VReg)
  | vavg (v1 v2 v3 : VReg) (m4 : MField)
  | vavgl (v1 v2 v3 : VReg) (m4 : MField)
  | vmx (v1 v2 v3 : VReg) (m4 : MField)
  | vmxl (v1 v2 v3 : VReg) (m4 : MField)
  | vmn (v1 v2 v3 : VReg) (m4 : MField)
  | vmnl (v1 v2 v3 : VReg) (m4 : MField)
  | vml (v1 v2 v3 : VReg) (m4 : MField)
  | vmh (v1 v2 v3 : VReg) (m4 : MField)
  | vmlh (v1 v2 v3 : VReg) (m4 : MField)
  | vme (v1 v2 v3 : VReg) (m4 : MField)
  | vmle (v1 v2 v3 : VReg) (m4 : MField)
  | vmo (v1 v2 v3 : VReg) (m4 : MField)
  | vmlo (v1 v2 v3 : VReg) (m4 : MField)
  -- 42_lane_unary.md
  | vlc (v1 v2 : VReg) (m3 : MField)
  | vlp (v1 v2 : VReg) (m3 : MField)
  | vpopct (v1 v2 : VReg) (m3 : MField)
  | vclz (v1 v2 : VReg) (m3 : MField)
  | vctz (v1 v2 : VReg) (m3 : MField)
  -- 43_pack_unpack.md
  | vpk (v1 v2 v3 : VReg) (m4 : MField)
  | vpks (v1 v2 v3 : VReg) (m4 m5 : MField)
  | vpkls (v1 v2 v3 : VReg) (m4 m5 : MField)
  | vuph (v1 v2 : VReg) (m3 : MField)
  | vupl (v1 v2 : VReg) (m3 : MField)
  | vuplh (v1 v2 : VReg) (m3 : MField)
  | vupll (v1 v2 : VReg) (m3 : MField)
  -- 44_permute.md
  | vperm (v1 v2 v3 v4 : VReg)
  | vsel (v1 v2 v3 v4 : VReg)
  | vmrh (v1 v2 v3 : VReg) (m4 : MField)
  | vmrl (v1 v2 v3 : VReg) (m4 : MField)
  | vrep (v1 v3 : VReg) (i2 : BitVec 16) (m4 : MField)
  | vrepi (v1 : VReg) (i2 : BitVec 16) (m3 : MField)
  | vpdi (v1 v2 v3 : VReg) (m4 : MField)
  -- 45_element_memory.md
  | vgef (v1 : VReg) (d2 : BitVec 12) (v2 : VReg) (b2 : GReg) (m3 : MField)
  | vgeg (v1 : VReg) (d2 : BitVec 12) (v2 : VReg) (b2 : GReg) (m3 : MField)
  | vscef (v1 : VReg) (d2 : BitVec 12) (v2 : VReg) (b2 : GReg) (m3 : MField)
  | vsceg (v1 : VReg) (d2 : BitVec 12) (v2 : VReg) (b2 : GReg) (m3 : MField)
  | vll (v1 : VReg) (r3 : GReg) (d2 : BitVec 12) (b2 : GReg)
  | vstl (v1 : VReg) (r3 : GReg) (d2 : BitVec 12) (b2 : GReg)
  | lcbb (r1 : GReg) (d2 : BitVec 12) (x2 b2 : GReg) (m3 : MField)
  -- 46_predicate.md
  | vch (v1 v2 v3 : VReg) (m4 m5 : MField)
  | vchl (v1 v2 v3 : VReg) (m4 m5 : MField)
  | locr (r1 r2 : GReg) (m3 : MField)
  | locgr (r1 r2 : GReg) (m3 : MField)
  | loc (r1 : GReg) (d2 : BitVec 20) (b2 : GReg) (m3 : MField)
  | locg (r1 : GReg) (d2 : BitVec 20) (b2 : GReg) (m3 : MField)
  | stoc (r1 : GReg) (d2 : BitVec 20) (b2 : GReg) (m3 : MField)
  | stocg (r1 : GReg) (d2 : BitVec 20) (b2 : GReg) (m3 : MField)
  deriving DecidableEq, Repr

end Sys2Proof
end

