-- ==== Sys2Proof/WellFormed.lean ====
section
/-! DEFINITION. Which decoded instructions an encoding exists for (30_encoding.md R115). Every other operand value
of `Instr` is encodable; an illegal element-size, index or block-size code is well formed and raises
SPECIFICATION when it runs (R93, R117). -/

namespace Sys2Proof

/-- M5 of VCH, VCHL, VPKS and VPKLS holds only the CS bit: its ibits 0-2 are reserved (R98, R115). -/
def csFieldOk (m5 : MField) : Bool := m5 &&& 0b1110#4 == 0#4

/-- M4 of VPDI holds only the selectors of values 4 and 1: its ibits 0 and 2 are reserved (R115, R266). -/
def vpdiFieldOk (m4 : MField) : Bool := m4 &&& 0b1010#4 == 0#4

/-- An instruction that some word encodes: its reserved field bits are zero (R115). -/
def Instr.wf : Instr → Bool
  | .vch _ _ _ _ m5 => csFieldOk m5
  | .vchl _ _ _ _ m5 => csFieldOk m5
  | .vpks _ _ _ _ m5 => csFieldOk m5
  | .vpkls _ _ _ _ m5 => csFieldOk m5
  | .vpdi _ _ _ m4 => vpdiFieldOk m4
  | .va .. | .vs .. | .vn .. | .vnc .. | .vo .. | .vno .. | .vx .. | .vavg .. | .vavgl .. | .vmx .. | .vmxl ..
  | .vmn .. | .vmnl .. | .vml .. | .vmh .. | .vmlh .. | .vme .. | .vmle .. | .vmo .. | .vmlo .. => true
  | .vlc .. | .vlp .. | .vpopct .. | .vclz .. | .vctz .. => true
  | .vpk .. | .vuph .. | .vupl .. | .vuplh .. | .vupll .. => true
  | .vperm .. | .vsel .. | .vmrh .. | .vmrl .. | .vrep .. | .vrepi .. => true
  | .vgef .. | .vgeg .. | .vscef .. | .vsceg .. | .vll .. | .vstl .. | .lcbb .. => true
  | .locr .. | .locgr .. | .loc .. | .locg .. | .stoc .. | .stocg .. => true

end Sys2Proof
end

