-- ==== Sys2Proof/Decode.lean ====
section
/-! DEFINITION. From instruction bytes to `Instr` and back (30_encoding.md). Decoding is total and follows the
match and mask of opcode_table.json (R93); the fields are those of the formats R97 to R108. A 32-bit word is held
in the low 32 bits of the 48-bit `W`, so a 4-byte row's match and mask are its own, zero-extended. -/

namespace Sys2Proof

/-- One row of opcode_table.json: length in bytes, mask and match (R93, R116). -/
structure OpcodeRow where
  len : Nat
  mask : BitVec 48
  pattern : BitVec 48
  deriving DecidableEq, Repr

/-- opcode_table.json (R116): the mask covers the opcode and every reserved bit of R115. -/
def opcodeRow : Mnemonic → OpcodeRow
  | .vgeg => ⟨6, 0xFF00000003FF#48, 0xE70000000012#48⟩
  | .vgef => ⟨6, 0xFF00000003FF#48, 0xE70000000013#48⟩
  | .vsceg => ⟨6, 0xFF00000003FF#48, 0xE7000000001A#48⟩
  | .vscef => ⟨6, 0xFF00000003FF#48, 0xE7000000001B#48⟩
  | .lcbb => ⟨6, 0xFF0000000FFF#48, 0xE70000000027#48⟩
  | .vll => ⟨6, 0xFF000000F7FF#48, 0xE70000000037#48⟩
  | .vstl => ⟨6, 0xFF000000F7FF#48, 0xE7000000003F#48⟩
  | .vrepi => ⟨6, 0xFF0F000007FF#48, 0xE70000000045#48⟩
  | .vrep => ⟨6, 0xFF00000003FF#48, 0xE7000000004D#48⟩
  | .vpopct => ⟨6, 0xFF00FFFF03FF#48, 0xE70000000050#48⟩
  | .vctz => ⟨6, 0xFF00FFFF03FF#48, 0xE70000000052#48⟩
  | .vclz => ⟨6, 0xFF00FFFF03FF#48, 0xE70000000053#48⟩
  | .vmrl => ⟨6, 0xFF000FFF01FF#48, 0xE70000000060#48⟩
  | .vmrh => ⟨6, 0xFF000FFF01FF#48, 0xE70000000061#48⟩
  | .vn => ⟨6, 0xFF000FFFF1FF#48, 0xE70000000068#48⟩
  | .vnc => ⟨6, 0xFF000FFFF1FF#48, 0xE70000000069#48⟩
  | .vo => ⟨6, 0xFF000FFFF1FF#48, 0xE7000000006A#48⟩
  | .vno => ⟨6, 0xFF000FFFF1FF#48, 0xE7000000006B#48⟩
  | .vx => ⟨6, 0xFF000FFFF1FF#48, 0xE7000000006D#48⟩
  | .vpdi => ⟨6, 0xFF000FFFA1FF#48, 0xE70000000084#48⟩
  | .vperm => ⟨6, 0xFF000FFF00FF#48, 0xE7000000008C#48⟩
  | .vsel => ⟨6, 0xFF000FFF00FF#48, 0xE7000000008D#48⟩
  | .vpk => ⟨6, 0xFF000FFF01FF#48, 0xE70000000094#48⟩
  | .vpkls => ⟨6, 0xFF000FEF01FF#48, 0xE70000000095#48⟩
  | .vpks => ⟨6, 0xFF000FEF01FF#48, 0xE70000000097#48⟩
  | .vmlh => ⟨6, 0xFF000FFF01FF#48, 0xE700000000A1#48⟩
  | .vml => ⟨6, 0xFF000FFF01FF#48, 0xE700000000A2#48⟩
  | .vmh => ⟨6, 0xFF000FFF01FF#48, 0xE700000000A3#48⟩
  | .vmle => ⟨6, 0xFF000FFF01FF#48, 0xE700000000A4#48⟩
  | .vmlo => ⟨6, 0xFF000FFF01FF#48, 0xE700000000A5#48⟩
  | .vme => ⟨6, 0xFF000FFF01FF#48, 0xE700000000A6#48⟩
  | .vmo => ⟨6, 0xFF000FFF01FF#48, 0xE700000000A7#48⟩
  | .vupll => ⟨6, 0xFF00FFFF03FF#48, 0xE700000000D4#48⟩
  | .vuplh => ⟨6, 0xFF00FFFF03FF#48, 0xE700000000D5#48⟩
  | .vupl => ⟨6, 0xFF00FFFF03FF#48, 0xE700000000D6#48⟩
  | .vuph => ⟨6, 0xFF00FFFF03FF#48, 0xE700000000D7#48⟩
  | .vlc => ⟨6, 0xFF00FFFF03FF#48, 0xE700000000DE#48⟩
  | .vlp => ⟨6, 0xFF00FFFF03FF#48, 0xE700000000DF#48⟩
  | .vavgl => ⟨6, 0xFF000FFF01FF#48, 0xE700000000F0#48⟩
  | .vavg => ⟨6, 0xFF000FFF01FF#48, 0xE700000000F2#48⟩
  | .va => ⟨6, 0xFF000FFF01FF#48, 0xE700000000F3#48⟩
  | .vs => ⟨6, 0xFF000FFF01FF#48, 0xE700000000F7#48⟩
  | .vchl => ⟨6, 0xFF000FEF01FF#48, 0xE700000000F9#48⟩
  | .vch => ⟨6, 0xFF000FEF01FF#48, 0xE700000000FB#48⟩
  | .vmnl => ⟨6, 0xFF000FFF01FF#48, 0xE700000000FC#48⟩
  | .vmxl => ⟨6, 0xFF000FFF01FF#48, 0xE700000000FD#48⟩
  | .vmn => ⟨6, 0xFF000FFF01FF#48, 0xE700000000FE#48⟩
  | .vmx => ⟨6, 0xFF000FFF01FF#48, 0xE700000000FF#48⟩
  | .locg => ⟨6, 0xFF00000000FF#48, 0xEB00000000E2#48⟩
  | .stocg => ⟨6, 0xFF00000000FF#48, 0xEB00000000E3#48⟩
  | .loc => ⟨6, 0xFF00000000FF#48, 0xEB00000000F2#48⟩
  | .stoc => ⟨6, 0xFF00000000FF#48, 0xEB00000000F3#48⟩
  | .locgr => ⟨4, 0xFFFF0F00#48, 0x0000B9E20000#48⟩
  | .locr => ⟨4, 0xFFFF0F00#48, 0x0000B9F20000#48⟩

/-- Every mnemonic, in the table's order. -/
def allMnemonics : List Mnemonic :=
  [.vgeg, .vgef, .vsceg, .vscef, .lcbb, .vll, .vstl, .vrepi, .vrep, .vpopct, .vctz, .vclz,
   .vmrl, .vmrh, .vn, .vnc, .vo, .vno, .vx, .vpdi, .vperm, .vsel, .vpk, .vpkls,
   .vpks, .vmlh, .vml, .vmh, .vmle, .vmlo, .vme, .vmo, .vupll, .vuplh, .vupl, .vuph,
   .vlc, .vlp, .vavgl, .vavg, .va, .vs, .vchl, .vch, .vmnl, .vmxl, .vmn, .vmx,
   .locg, .stocg, .loc, .stoc, .locgr, .locr]

/-- The bits of the word that hold the opcode (R92): the first and last byte of a 6-byte word, the first two
bytes of a 4-byte one. -/
def opcodeMask (len : Nat) : BitVec 48 :=
  if len = 6 then 0xFF00000000FF#48 else 0x0000FFFF0000#48

/-- The row whose length and opcode bits are these (R92, R116). -/
def lookupOpcode (len : Nat) (op : BitVec 48) : Option Mnemonic :=
  allMnemonics.find? fun m => (opcodeRow m).len == len && (opcodeRow m).pattern == op

/-- The instruction length in bytes from ibits 0-1 of the first byte (R91). -/
def lengthCode (b : Byte) : Nat :=
  match (b.extractLsb' 6 2).toNat with
  | 0 => 2
  | 3 => 6
  | _ => 4

/-- The word of instruction bytes in fetch order, the first byte most significant (R90). -/
def wordOfBytes (bs : List Byte) : BitVec 48 :=
  bs.foldl (fun w b => (w <<< 8) ||| b.setWidth 48) 0#48

/-- The `n` bytes of a word in fetch order (R90). -/
def bytesOfWord (n : Nat) (w : BitVec 48) : List Byte :=
  (List.range n).map fun j => w.extractLsb' (8 * (n - 1 - j)) 8

/-! ### Fields of the word -/

/-- The 4-bit field W[lo+3 : lo]. -/
def nibble (w : BitVec 48) (lo : Nat) : BitVec 4 := w.extractLsb' lo 4

/-- The vector register of the 4-bit field at `lo`, extended by RXB bit W[rxb] (R96). -/
def vregField (w : BitVec 48) (lo rxb : Nat) : VReg := w.extractLsb' rxb 1 ++ w.extractLsb' lo 4

/-- The register of the field at ibits 8-11, W[39:36], extended by RXB bit ibit 36, W[11] (R96). -/
def vregAt8 (w : BitVec 48) : VReg := vregField w 36 11
/-- The register of the field at ibits 12-15, W[35:32], extended by RXB bit ibit 37, W[10] (R96). -/
def vregAt12 (w : BitVec 48) : VReg := vregField w 32 10
/-- The register of the field at ibits 16-19, W[31:28], extended by RXB bit ibit 38, W[9] (R96). -/
def vregAt16 (w : BitVec 48) : VReg := vregField w 28 9
/-- The register of the field at ibits 32-35, W[15:12], extended by RXB bit ibit 39, W[8] (R96). -/
def vregAt32 (w : BitVec 48) : VReg := vregField w 12 8

/-- The 12-bit displacement W[27:16] (R104, R105, R106). -/
def disp12 (w : BitVec 48) : BitVec 12 := w.extractLsb' 16 12
/-- The 20-bit displacement DH2 ++ DL2 of RSY-b, W[15:8] ++ W[27:16] (R108, R110). -/
def disp20 (w : BitVec 48) : BitVec 20 := w.extractLsb' 8 8 ++ w.extractLsb' 16 12
/-- The 16-bit immediate W[31:16] (R102, R103). -/
def imm16 (w : BitVec 48) : BitVec 16 := w.extractLsb' 16 16

/-- The instruction of a word, read by the format of its row (R97 to R108). -/
def instrOfWord (m : Mnemonic) (w : BitVec 48) : Instr :=
  match m with
  -- VRR-a (R97)
  | .vlc => .vlc (vregAt8 w) (vregAt12 w) (nibble w 12)
  | .vlp => .vlp (vregAt8 w) (vregAt12 w) (nibble w 12)
  | .vpopct => .vpopct (vregAt8 w) (vregAt12 w) (nibble w 12)
  | .vclz => .vclz (vregAt8 w) (vregAt12 w) (nibble w 12)
  | .vctz => .vctz (vregAt8 w) (vregAt12 w) (nibble w 12)
  | .vuph => .vuph (vregAt8 w) (vregAt12 w) (nibble w 12)
  | .vupl => .vupl (vregAt8 w) (vregAt12 w) (nibble w 12)
  | .vuplh => .vuplh (vregAt8 w) (vregAt12 w) (nibble w 12)
  | .vupll => .vupll (vregAt8 w) (vregAt12 w) (nibble w 12)
  -- VRR-b (R98)
  | .vch => .vch (vregAt8 w) (vregAt12 w) (vregAt16 w) (nibble w 12) (nibble w 20)
  | .vchl => .vchl (vregAt8 w) (vregAt12 w) (vregAt16 w) (nibble w 12) (nibble w 20)
  | .vpks => .vpks (vregAt8 w) (vregAt12 w) (vregAt16 w) (nibble w 12) (nibble w 20)
  | .vpkls => .vpkls (vregAt8 w) (vregAt12 w) (vregAt16 w) (nibble w 12) (nibble w 20)
  -- VRR-c (R99)
  | .va => .va (vregAt8 w) (vregAt12 w) (vregAt16 w) (nibble w 12)
  | .vs => .vs (vregAt8 w) (vregAt12 w) (vregAt16 w) (nibble w 12)
  | .vn => .vn (vregAt8 w) (vregAt12 w) (vregAt16 w)
  | .vnc => .vnc (vregAt8 w) (vregAt12 w) (vregAt16 w)
  | .vo => .vo (vregAt8 w) (vregAt12 w) (vregAt16 w)
  | .vno => .vno (vregAt8 w) (vregAt12 w) (vregAt16 w)
  | .vx => .vx (vregAt8 w) (vregAt12 w) (vregAt16 w)
  | .vavg => .vavg (vregAt8 w) (vregAt12 w) (vregAt16 w) (nibble w 12)
  | .vavgl => .vavgl (vregAt8 w) (vregAt12 w) (vregAt16 w) (nibble w 12)
  | .vmx => .vmx (vregAt8 w) (vregAt12 w) (vregAt16 w) (nibble w 12)
  | .vmxl => .vmxl (vregAt8 w) (vregAt12 w) (vregAt16 w) (nibble w 12)
  | .vmn => .vmn (vregAt8 w) (vregAt12 w) (vregAt16 w) (nibble w 12)
  | .vmnl => .vmnl (vregAt8 w) (vregAt12 w) (vregAt16 w) (nibble w 12)
  | .vml => .vml (vregAt8 w) (vregAt12 w) (vregAt16 w) (nibble w 12)
  | .vmh => .vmh (vregAt8 w) (vregAt12 w) (vregAt16 w) (nibble w 12)
  | .vmlh => .vmlh (vregAt8 w) (vregAt12 w) (vregAt16 w) (nibble w 12)
  | .vme => .vme (vregAt8 w) (vregAt12 w) (vregAt16 w) (nibble w 12)
  | .vmle => .vmle (vregAt8 w) (vregAt12 w) (vregAt16 w) (nibble w 12)
  | .vmo => .vmo (vregAt8 w) (vregAt12 w) (vregAt16 w) (nibble w 12)
  | .vmlo => .vmlo (vregAt8 w) (vregAt12 w) (vregAt16 w) (nibble w 12)
  | .vpk => .vpk (vregAt8 w) (vregAt12 w) (vregAt16 w) (nibble w 12)
  | .vmrh => .vmrh (vregAt8 w) (vregAt12 w) (vregAt16 w) (nibble w 12)
  | .vmrl => .vmrl (vregAt8 w) (vregAt12 w) (vregAt16 w) (nibble w 12)
  | .vpdi => .vpdi (vregAt8 w) (vregAt12 w) (vregAt16 w) (nibble w 12)
  -- VRR-e (R101)
  | .vperm => .vperm (vregAt8 w) (vregAt12 w) (vregAt16 w) (vregAt32 w)
  | .vsel => .vsel (vregAt8 w) (vregAt12 w) (vregAt16 w) (vregAt32 w)
  -- VRI-a (R102)
  | .vrepi => .vrepi (vregAt8 w) (imm16 w) (nibble w 12)
  -- VRI-c (R103)
  | .vrep => .vrep (vregAt8 w) (vregAt12 w) (imm16 w) (nibble w 12)
  -- VRS-b (R104)
  | .vll => .vll (vregAt8 w) (nibble w 32) (disp12 w) (nibble w 28)
  | .vstl => .vstl (vregAt8 w) (nibble w 32) (disp12 w) (nibble w 28)
  -- VRV (R105)
  | .vgef => .vgef (vregAt8 w) (disp12 w) (vregAt12 w) (nibble w 28) (nibble w 12)
  | .vgeg => .vgeg (vregAt8 w) (disp12 w) (vregAt12 w) (nibble w 28) (nibble w 12)
  | .vscef => .vscef (vregAt8 w) (disp12 w) (vregAt12 w) (nibble w 28) (nibble w 12)
  | .vsceg => .vsceg (vregAt8 w) (disp12 w) (vregAt12 w) (nibble w 28) (nibble w 12)
  -- RXE (R106)
  | .lcbb => .lcbb (nibble w 36) (disp12 w) (nibble w 32) (nibble w 28) (nibble w 12)
  -- RRF-c (R107)
  | .locr => .locr (nibble w 4) (nibble w 0) (nibble w 12)
  | .locgr => .locgr (nibble w 4) (nibble w 0) (nibble w 12)
  -- RSY-b (R108)
  | .loc => .loc (nibble w 36) (disp20 w) (nibble w 28) (nibble w 32)
  | .locg => .locg (nibble w 36) (disp20 w) (nibble w 28) (nibble w 32)
  | .stoc => .stoc (nibble w 36) (disp20 w) (nibble w 28) (nibble w 32)
  | .stocg => .stocg (nibble w 36) (disp20 w) (nibble w 28) (nibble w 32)

/-! ### Decoding -/

/-- What decoding the front of the handed bytes gives. -/
inductive Decoded where
  | instr (i : Instr) (rest : List Byte)  -- an instruction, and the bytes after it
  | unknownEncoding                       -- no row has this opcode (R93)
  | reservedFieldNonzero                  -- the opcode is a row's, a reserved bit is one (R93, R115)
  | incomplete                            -- fewer bytes than the length code asks for: no whole word was handed
  deriving DecidableEq, Repr

/-- Decode the word `w` of `len` bytes: the opcode selects the row, whose mask covers every reserved bit (R93). DEDUCED, safe: which
of the two refusals a word gets (log entry 16). -/
def decodeWord (len : Nat) (w : BitVec 48) (rest : List Byte) : Decoded :=
  match lookupOpcode len (w &&& opcodeMask len) with
  | none => .unknownEncoding
  | some m =>
    if w &&& (opcodeRow m).mask = (opcodeRow m).pattern then .instr (instrOfWord m w) rest
    else .reservedFieldNonzero

/-- Decode the instruction at the front of the bytes (R90 to R93); the first byte tells the length (R91). -/
def decode : List Byte → Decoded
  | [] => .incomplete
  | b :: bs =>
    if (b :: bs).length < lengthCode b then .incomplete
    else
      decodeWord (lengthCode b) (wordOfBytes ((b :: bs).take (lengthCode b))) ((b :: bs).drop (lengthCode b))

/-! ### Encoding -/

/-- The field value `x` at W[lo + n - 1 : lo]. -/
def place {n : Nat} (x : BitVec n) (lo : Nat) : BitVec 48 := x.setWidth 48 <<< lo

/-- The vector register `v` as a 4-bit field at `lo` and an RXB bit at `rxb` (R96). -/
def placeVReg (v : VReg) (lo rxb : Nat) : BitVec 48 :=
  place (v.extractLsb' 0 4) lo ||| place (v.extractLsb' 4 1) rxb

/-- The word of a VRR-a instruction (R97). -/
def encodeVRRa (m : Mnemonic) (v1 v2 : VReg) (m3 : MField) : BitVec 48 :=
  (opcodeRow m).pattern ||| placeVReg v1 36 11 ||| placeVReg v2 32 10 ||| place m3 12

/-- The word of a VRR-b instruction (R98). -/
def encodeVRRb (m : Mnemonic) (v1 v2 v3 : VReg) (m4 m5 : MField) : BitVec 48 :=
  (opcodeRow m).pattern ||| placeVReg v1 36 11 ||| placeVReg v2 32 10 ||| placeVReg v3 28 9 ||| place m5 20 |||
    place m4 12

/-- The word of a VRR-c instruction (R99). -/
def encodeVRRc (m : Mnemonic) (v1 v2 v3 : VReg) (m4 : MField) : BitVec 48 :=
  (opcodeRow m).pattern ||| placeVReg v1 36 11 ||| placeVReg v2 32 10 ||| placeVReg v3 28 9 ||| place m4 12

/-- The word of a VRR-e instruction (R101). -/
def encodeVRRe (m : Mnemonic) (v1 v2 v3 v4 : VReg) : BitVec 48 :=
  (opcodeRow m).pattern ||| placeVReg v1 36 11 ||| placeVReg v2 32 10 ||| placeVReg v3 28 9 ||| placeVReg v4 12 8

/-- The word of a VRI-a instruction (R102). -/
def encodeVRIa (m : Mnemonic) (v1 : VReg) (i2 : BitVec 16) (m3 : MField) : BitVec 48 :=
  (opcodeRow m).pattern ||| placeVReg v1 36 11 ||| place i2 16 ||| place m3 12

/-- The word of a VRI-c instruction (R103). -/
def encodeVRIc (m : Mnemonic) (v1 v3 : VReg) (i2 : BitVec 16) (m4 : MField) : BitVec 48 :=
  (opcodeRow m).pattern ||| placeVReg v1 36 11 ||| placeVReg v3 32 10 ||| place i2 16 ||| place m4 12

/-- The word of a VRS-b instruction (R104). -/
def encodeVRSb (m : Mnemonic) (v1 : VReg) (r3 : GReg) (d2 : BitVec 12) (b2 : GReg) : BitVec 48 :=
  (opcodeRow m).pattern ||| placeVReg v1 36 11 ||| place r3 32 ||| place b2 28 ||| place d2 16

/-- The word of a VRV instruction (R105). -/
def encodeVRV (m : Mnemonic) (v1 : VReg) (d2 : BitVec 12) (v2 : VReg) (b2 : GReg) (m3 : MField) : BitVec 48 :=
  (opcodeRow m).pattern ||| placeVReg v1 36 11 ||| placeVReg v2 32 10 ||| place b2 28 ||| place d2 16 ||| place m3 12

/-- The word of an RXE instruction (R106). -/
def encodeRXE (m : Mnemonic) (r1 : GReg) (d2 : BitVec 12) (x2 b2 : GReg) (m3 : MField) : BitVec 48 :=
  (opcodeRow m).pattern ||| place r1 36 ||| place x2 32 ||| place b2 28 ||| place d2 16 ||| place m3 12

/-- The 32-bit word of an RRF-c instruction (R107). -/
def encodeRRFc (m : Mnemonic) (r1 r2 : GReg) (m3 : MField) : BitVec 48 :=
  (opcodeRow m).pattern ||| place m3 12 ||| place r1 4 ||| place r2 0

/-- The word of an RSY-b instruction (R108): DL2 is the low 12 bits of the displacement, DH2 the high 8. -/
def encodeRSYb (m : Mnemonic) (r1 : GReg) (d2 : BitVec 20) (b2 : GReg) (m3 : MField) : BitVec 48 :=
  (opcodeRow m).pattern ||| place r1 36 ||| place m3 32 ||| place b2 28 ||| place (d2.extractLsb' 0 12) 16 |||
    place (d2.extractLsb' 12 8) 8

/-- The word of an instruction (R97 to R108, R116). -/
def Instr.word : Instr → BitVec 48
  -- VRR-a (R97)
  | .vlc v1 v2 m3 => encodeVRRa .vlc v1 v2 m3
  | .vlp v1 v2 m3 => encodeVRRa .vlp v1 v2 m3
  | .vpopct v1 v2 m3 => encodeVRRa .vpopct v1 v2 m3
  | .vclz v1 v2 m3 => encodeVRRa .vclz v1 v2 m3
  | .vctz v1 v2 m3 => encodeVRRa .vctz v1 v2 m3
  | .vuph v1 v2 m3 => encodeVRRa .vuph v1 v2 m3
  | .vupl v1 v2 m3 => encodeVRRa .vupl v1 v2 m3
  | .vuplh v1 v2 m3 => encodeVRRa .vuplh v1 v2 m3
  | .vupll v1 v2 m3 => encodeVRRa .vupll v1 v2 m3
  -- VRR-b (R98)
  | .vch v1 v2 v3 m4 m5 => encodeVRRb .vch v1 v2 v3 m4 m5
  | .vchl v1 v2 v3 m4 m5 => encodeVRRb .vchl v1 v2 v3 m4 m5
  | .vpks v1 v2 v3 m4 m5 => encodeVRRb .vpks v1 v2 v3 m4 m5
  | .vpkls v1 v2 v3 m4 m5 => encodeVRRb .vpkls v1 v2 v3 m4 m5
  -- VRR-c (R99)
  | .va v1 v2 v3 m4 => encodeVRRc .va v1 v2 v3 m4
  | .vs v1 v2 v3 m4 => encodeVRRc .vs v1 v2 v3 m4
  | .vn v1 v2 v3 => encodeVRRc .vn v1 v2 v3 0#4
  | .vnc v1 v2 v3 => encodeVRRc .vnc v1 v2 v3 0#4
  | .vo v1 v2 v3 => encodeVRRc .vo v1 v2 v3 0#4
  | .vno v1 v2 v3 => encodeVRRc .vno v1 v2 v3 0#4
  | .vx v1 v2 v3 => encodeVRRc .vx v1 v2 v3 0#4
  | .vavg v1 v2 v3 m4 => encodeVRRc .vavg v1 v2 v3 m4
  | .vavgl v1 v2 v3 m4 => encodeVRRc .vavgl v1 v2 v3 m4
  | .vmx v1 v2 v3 m4 => encodeVRRc .vmx v1 v2 v3 m4
  | .vmxl v1 v2 v3 m4 => encodeVRRc .vmxl v1 v2 v3 m4
  | .vmn v1 v2 v3 m4 => encodeVRRc .vmn v1 v2 v3 m4
  | .vmnl v1 v2 v3 m4 => encodeVRRc .vmnl v1 v2 v3 m4
  | .vml v1 v2 v3 m4 => encodeVRRc .vml v1 v2 v3 m4
  | .vmh v1 v2 v3 m4 => encodeVRRc .vmh v1 v2 v3 m4
  | .vmlh v1 v2 v3 m4 => encodeVRRc .vmlh v1 v2 v3 m4
  | .vme v1 v2 v3 m4 => encodeVRRc .vme v1 v2 v3 m4
  | .vmle v1 v2 v3 m4 => encodeVRRc .vmle v1 v2 v3 m4
  | .vmo v1 v2 v3 m4 => encodeVRRc .vmo v1 v2 v3 m4
  | .vmlo v1 v2 v3 m4 => encodeVRRc .vmlo v1 v2 v3 m4
  | .vpk v1 v2 v3 m4 => encodeVRRc .vpk v1 v2 v3 m4
  | .vmrh v1 v2 v3 m4 => encodeVRRc .vmrh v1 v2 v3 m4
  | .vmrl v1 v2 v3 m4 => encodeVRRc .vmrl v1 v2 v3 m4
  | .vpdi v1 v2 v3 m4 => encodeVRRc .vpdi v1 v2 v3 m4
  -- VRR-e (R101)
  | .vperm v1 v2 v3 v4 => encodeVRRe .vperm v1 v2 v3 v4
  | .vsel v1 v2 v3 v4 => encodeVRRe .vsel v1 v2 v3 v4
  -- VRI-a (R102)
  | .vrepi v1 i2 m3 => encodeVRIa .vrepi v1 i2 m3
  -- VRI-c (R103)
  | .vrep v1 v3 i2 m4 => encodeVRIc .vrep v1 v3 i2 m4
  -- VRS-b (R104)
  | .vll v1 r3 d2 b2 => encodeVRSb .vll v1 r3 d2 b2
  | .vstl v1 r3 d2 b2 => encodeVRSb .vstl v1 r3 d2 b2
  -- VRV (R105)
  | .vgef v1 d2 v2 b2 m3 => encodeVRV .vgef v1 d2 v2 b2 m3
  | .vgeg v1 d2 v2 b2 m3 => encodeVRV .vgeg v1 d2 v2 b2 m3
  | .vscef v1 d2 v2 b2 m3 => encodeVRV .vscef v1 d2 v2 b2 m3
  | .vsceg v1 d2 v2 b2 m3 => encodeVRV .vsceg v1 d2 v2 b2 m3
  -- RXE (R106)
  | .lcbb r1 d2 x2 b2 m3 => encodeRXE .lcbb r1 d2 x2 b2 m3
  -- RRF-c (R107)
  | .locr r1 r2 m3 => encodeRRFc .locr r1 r2 m3
  | .locgr r1 r2 m3 => encodeRRFc .locgr r1 r2 m3
  -- RSY-b (R108)
  | .loc r1 d2 b2 m3 => encodeRSYb .loc r1 d2 b2 m3
  | .locg r1 d2 b2 m3 => encodeRSYb .locg r1 d2 b2 m3
  | .stoc r1 d2 b2 m3 => encodeRSYb .stoc r1 d2 b2 m3
  | .stocg r1 d2 b2 m3 => encodeRSYb .stocg r1 d2 b2 m3

/-- The mnemonic of an instruction (R116). -/
def Instr.mnemonic : Instr → Mnemonic
  -- VRR-a (R97)
  | .vlc .. => .vlc
  | .vlp .. => .vlp
  | .vpopct .. => .vpopct
  | .vclz .. => .vclz
  | .vctz .. => .vctz
  | .vuph .. => .vuph
  | .vupl .. => .vupl
  | .vuplh .. => .vuplh
  | .vupll .. => .vupll
  -- VRR-b (R98)
  | .vch .. => .vch
  | .vchl .. => .vchl
  | .vpks .. => .vpks
  | .vpkls .. => .vpkls
  -- VRR-c (R99)
  | .va .. => .va
  | .vs .. => .vs
  | .vn .. => .vn
  | .vnc .. => .vnc
  | .vo .. => .vo
  | .vno .. => .vno
  | .vx .. => .vx
  | .vavg .. => .vavg
  | .vavgl .. => .vavgl
  | .vmx .. => .vmx
  | .vmxl .. => .vmxl
  | .vmn .. => .vmn
  | .vmnl .. => .vmnl
  | .vml .. => .vml
  | .vmh .. => .vmh
  | .vmlh .. => .vmlh
  | .vme .. => .vme
  | .vmle .. => .vmle
  | .vmo .. => .vmo
  | .vmlo .. => .vmlo
  | .vpk .. => .vpk
  | .vmrh .. => .vmrh
  | .vmrl .. => .vmrl
  | .vpdi .. => .vpdi
  -- VRR-e (R101)
  | .vperm .. => .vperm
  | .vsel .. => .vsel
  -- VRI-a (R102)
  | .vrepi .. => .vrepi
  -- VRI-c (R103)
  | .vrep .. => .vrep
  -- VRS-b (R104)
  | .vll .. => .vll
  | .vstl .. => .vstl
  -- VRV (R105)
  | .vgef .. => .vgef
  | .vgeg .. => .vgeg
  | .vscef .. => .vscef
  | .vsceg .. => .vsceg
  -- RXE (R106)
  | .lcbb .. => .lcbb
  -- RRF-c (R107)
  | .locr .. => .locr
  | .locgr .. => .locgr
  -- RSY-b (R108)
  | .loc .. => .loc
  | .locg .. => .locg
  | .stoc .. => .stoc
  | .stocg .. => .stocg

/-- The instruction length in bytes (R91): 4 for LOCR and LOCGR, 6 for every other instruction. -/
def Instr.length (i : Instr) : Nat := (opcodeRow i.mnemonic).len

/-- The bytes of an instruction, in fetch order (R90). -/
def encode (i : Instr) : List Byte := bytesOfWord i.length i.word

/-! ### The opcode table's words -/

/-- The bytes, in fetch order, of the instruction whose first `nbits` bits are `w`, numbered as opcode_table.json
numbers them: the row's word W as one number, its first byte most significant (R90). Bytes after them, up to the
longest instruction, are zero (log entry 11). -/
def tableBytes (nbits w : Nat) : List Byte :=
  let bs := bytesOfWord (nbits / 8) (BitVec.ofNat 48 w)
  bs ++ List.replicate (6 - bs.length) 0#8

/-- The instruction the decoder reads from a word of the opcode table. -/
def decodeTableWord (nbits w : Nat) : Option Instr :=
  match decode (tableBytes nbits w) with
  | .instr i _ => some i
  | _ => none

end Sys2Proof
end

