-- ==== Sys2Proof/Machine/State.lean ====
section
/-! DEFINITION. The machine's state (10_state.md R30, 20_memory.md R60), the faults and refusals a step can end in
(10_state.md R42, 60_exceptions.md), and the state after reset (70_reset_and_hazards.md R390). -/

namespace Sys2Proof.Machine

/-- The direction of a memory access (R60, R354). -/
inductive Direction where
  | read
  | write
  deriving DecidableEq, Repr

/-- A range of `size` addresses from `first` up, whose byte reads or byte writes, or both, the memory parameter
`Mem` refuses, and the code it attaches to the refusal, if any (R60, R352, R354). DESIGN CHOICE, safe: the form of the refusals
(log entry 15). -/
structure RefusedRange where
  first : Nat
  size : Nat
  reads : Bool
  writes : Bool
  code : Option Nat
  deriving DecidableEq, Repr

/-- The memory parameter `Mem` (R60): the bytes of the one flat address space, as (address, byte) pairs in
canonical form, and the accesses it refuses. No step changes `refusals`. -/
structure Mem where
  cells : List Host.Cell
  refusals : List RefusedRange
  deriving DecidableEq, Repr

/-- The whole state: `S = (VR, GR, CC)` and `Mem` (R30), which registers hold a value (R44), the parameters (R7),
what the interface shows of the enclosing CPU (R38, R42), and the model's counter of drawn free values. -/
structure State where
  /-- V0 to V31 (R31). -/
  vr : Vector V128 32
  /-- R0 to R15 (R34). -/
  gr : Vector Word64 16
  /-- The condition code (R37). -/
  cc : CondCode
  /-- Which vector registers were supplied in the initial state or written since (R44, R393 (a)). -/
  vrSupplied : Vector Bool 32
  /-- Which general registers were supplied or written (R44, R393 (a)). -/
  grSupplied : Vector Bool 16
  /-- Whether the CC was supplied or written (R44, R393 (b)). -/
  ccSupplied : Bool
  /-- The memory parameter (R60). -/
  mem : Mem
  /-- The implementation parameters (R7): fixed for a run. -/
  params : Config.Params
  /-- The instruction bytes the enclosing CPU has fetched and hands over, in fetch order (R42, R76). -/
  stream : List Byte
  /-- The enclosing CPU's instruction address (R38). -/
  ia : Addr
  /-- The model's own: how many free values have been drawn. -/
  draws : Nat
  deriving DecidableEq, Repr

/-- The faults of the block (R351, R352, R354). Each carries the instruction length in bytes and the state the fault
leaves (R42, R356, R357): the enclosing CPU performs the interruption (R358), the model ends the run (DEDUCED, safe, log entry 14). Both are the
spec's own faults, and safe: nothing is claimed to run past them. -/
inductive Fault where
  /-- SPECIFICATION (R351): an illegal element-size, element-index or block-size code, raised by the instructions of
  R351's table; `mnemonic`, `field` and `value` are R354's info. Safe. -/
  | specification (mnemonic : Mnemonic) (field : FieldName) (value : Nat) (length : Nat) (after : State)
  /-- ACCESS (R352): `Mem` refused a byte that VGEF, VGEG, VSCEF, VSCEG, VLL, VSTL, LOC, LOCG, STOC or STOCG must
  access; `address` is the first refused byte in access order, `passthrough` what `Mem` attached (R354, R355). Safe. -/
  | access (address : Addr) (direction : Direction) (passthrough : Option Nat) (length : Nat) (after : State)
  deriving DecidableEq, Repr

/-- The refusals: words to which the model gives no meaning, and programs whose behaviour the spec does not define
(R42). All are safe: the run stops. -/
inductive Refusal where
  /-- An instruction of the table without a meaning in the model. Raised by no arm. Safe. -/
  | notModelled (mnemonic : String)
  /-- Refused(unknown-encoding): the word's opcode is no row's (R93, R350). Raised by the step. Safe. -/
  | unknownEncoding
  /-- Refused(reserved-field-nonzero): the opcode is a row's and a reserved bit is one (R93, R115). Raised by the
  step. Safe. -/
  | reservedFieldNonzero
  /-- Refused(unwritten-read) under UNWRITTEN_READ = FAULT (R44): an instruction reads a register or the CC that was
  neither supplied nor written. Raised by every instruction with such a source; no state reached from reset has
  such a register. Safe. -/
  | unwrittenRead
  /-- The enclosing CPU has handed no whole word (R42): there is no step of the block to take. Raised by the step.
  Safe (log entry 6). -/
  | noWord
  deriving DecidableEq, Repr

/-- What a meaning or a step answers: Done, Fault or Refused (R42). -/
abbrev Result := Host.Outcome State Fault Refusal

/-- The state right after reset. The spec gives every register and the CC an unspecified value (R44, R390) and has a
model of the block alone start from an explicit initial state (R390, R393): here every register and the CC is
supplied as zero (DESIGN CHOICE, unsafe, log entry 1), memory lists nothing and refuses nothing (DESIGN CHOICE, unsafe,
log entries 3 and 4), the parameters have their defaults (R7), no word has been handed (R391; DESIGN CHOICE, safe, log
entry 6), and the address (log entry 7, unsafe) and the count of draws (log entry 8, safe) are zero by DESIGN CHOICE. -/
def State.reset : State :=
  { vr := Vector.replicate 32 0#128
    gr := Vector.replicate 16 0#64
    cc := 0#2
    vrSupplied := Vector.replicate 32 true
    grSupplied := Vector.replicate 16 true
    ccSupplied := true
    mem := { cells := [], refusals := [] }
    params := Config.Params.default
    stream := []
    ia := 0#64
    draws := 0 }

/-- The reset state before anything has met the boot requirements R393 (a) and (b): no register and no CC holds a
value, so that reading one follows UNWRITTEN_READ (R44, R390). -/
def State.resetUnsupplied : State :=
  { State.reset with
    vrSupplied := Vector.replicate 32 false
    grSupplied := Vector.replicate 16 false
    ccSupplied := false }

end Sys2Proof.Machine
end

