-- ==== Sys2Proof/Machine/Ops.lean ====
section
/-! DEFINITION. The named operations over memory and registers (00_scope.md R10, R12; 10_state.md R44; 20_memory.md)
and the two ways an instruction faults (60_exceptions.md R351 to R357). Reads take the rest of the instruction as
a continuation, because a read can end it (R44, R352). -/

namespace Sys2Proof.Machine

/-! ### Memory contents -/

/-- What an address that no cell lists reads as. The spec leaves initial contents to `Mem` (R390). DESIGN CHOICE,
unsafe for runs from reset: log entry 3. -/
def unlistedByte : Byte := 0#8

/-- The byte at address `a`. Cells are in rising order, so the search stops at the first larger address. -/
def readCell : List Host.Cell → Nat → Byte
  | [], _ => unlistedByte
  | (k, v) :: rest, a => if a < k then unlistedByte else if a = k then v else readCell rest a

/-- Store byte `b` at address `a`, keeping the canonical form: storing what an unlisted address reads as removes the
cell. -/
def writeCell : List Host.Cell → Nat → Byte → List Host.Cell
  | [], a, b => if b = unlistedByte then [] else [(a, b)]
  | (k, v) :: rest, a, b =>
    if a < k then (if b = unlistedByte then (k, v) :: rest else (a, b) :: (k, v) :: rest)
    else if a = k then (if b = unlistedByte then rest else (a, b) :: rest)
    else (k, v) :: writeCell rest a b

/-- The canonical form from address `lo` up: addresses strictly rising, each below 2^64, and no entry equal to what an
unlisted address reads as. -/
def cellsWf : Nat → List Host.Cell → Bool
  | _, [] => true
  | lo, (k, v) :: rest => decide (lo ≤ k) && decide (k < 2 ^ 64) && (v != unlistedByte) && cellsWf (k + 1) rest

/-- Memory is in canonical form. -/
def Mem.wf (m : Mem) : Bool := cellsWf 0 m.cells

/-- The byte at an address (R60). -/
def Mem.byteAt (m : Mem) (a : Addr) : Byte := readCell m.cells a.toNat

/-- Write the byte at an address. -/
def Mem.writeByte (m : Mem) (a : Addr) (b : Byte) : Mem := { m with cells := writeCell m.cells a.toNat b }

/-- Whether a refused range covers a byte access (R60). -/
def RefusedRange.covers (r : RefusedRange) (dir : Direction) (a : Addr) : Bool :=
  (match dir with | .read => r.reads | .write => r.writes) &&
    decide (r.first ≤ a.toNat) && decide (a.toNat < r.first + r.size)

/-- `none` where `Mem` admits the byte access; otherwise what it attaches to its refusal (R60, R352). -/
def Mem.refusal (m : Mem) (dir : Direction) (a : Addr) : Option (Option Nat) :=
  (m.refusals.find? fun r => r.covers dir a).map fun r => r.code

/-- The address of byte `j` of an access at `a`, modulo 2^64 (R62). -/
def byteAddr (a : Addr) (j : Nat) : Addr := a + BitVec.ofNat 64 j

/-- The first access position among `n` bytes at `a` that `Mem` refuses, in ascending access order, and the code
(R74, R355). -/
def Mem.firstRefused (m : Mem) (dir : Direction) (a : Addr) (n : Nat) : Option (Nat × Option Nat) :=
  (List.range n).findSome? fun p => (m.refusal dir (byteAddr a p)).map fun code => (p, code)

/-- The `n` bytes at `a`, in access order (R12). -/
def Mem.bytesAt (m : Mem) (a : Addr) (n : Nat) : List Byte :=
  (List.range n).map fun j => m.byteAt (byteAddr a j)

/-- Write bytes at `a`, the first to `a`, in access order (R12, R74). -/
def Mem.writeBytes (m : Mem) (a : Addr) : List Byte → Mem
  | [] => m
  | b :: rest => (m.writeByte a b).writeBytes (a + 1#64) rest

/-- Of the bytes before a refused one, write those that PARTIAL_STORE draws as written, draw numbers from `d` up
(R357). -/
def Mem.writeDrawn (m : Mem) (a : Addr) (d : Nat) : List Byte → Mem
  | [] => m
  | b :: rest =>
    (if Config.partialStore d then m.writeByte a b else m).writeDrawn (a + 1#64) (d + 1) rest

/-- The big-endian value of `n` bytes, the first most significant (R12, R63). -/
def beWord (n : Nat) (bs : List Byte) : BitVec (8 * n) :=
  bs.foldl (fun x b => (x <<< 8) ||| b.setWidth (8 * n)) 0

/-- The bytes of an `8 * n`-bit value in memory order, the most significant first (R12, R63). -/
def beBytes (n : Nat) (x : BitVec (8 * n)) : List Byte :=
  (List.range n).map fun j => x.extractLsb' (8 * (n - 1 - j)) 8

/-! ### Faults -/

/-- Raise SPECIFICATION (R351, R354): no register, CC or memory byte changes (R356). -/
def raiseSpecification (s : State) (m : Mnemonic) (field : FieldName) (value : Nat) : Result :=
  .fault (.specification m field value (opcodeRow m).len s)

/-- Raise ACCESS for the byte at `a` (R352, R354); `s` is the state the fault leaves (R356, R357). -/
def raiseAccess (s : State) (m : Mnemonic) (a : Addr) (dir : Direction) (code : Option Nat) : Result :=
  .fault (.access a dir code (opcodeRow m).len s)

/-- The program-interruption codes of a fault (R351, R352): ACCESS stands for protection, addressing, segment
translation and page translation. -/
def faultCodes : Fault → List Nat
  | .specification .. => [0x0006]
  | .access .. => [0x0004, 0x0005, 0x0010, 0x0011]

/-- The state a fault leaves (R356, R357). -/
def faultState : Fault → State
  | .specification _ _ _ _ s => s
  | .access _ _ _ _ s => s

/-- The instruction length a fault carries (R354). -/
def faultLength : Fault → Nat
  | .specification _ _ _ n _ => n
  | .access _ _ _ n _ => n

/-- The address the enclosing CPU's old PSW holds for a fault, which suppresses: that of the next sequential
instruction (R38, R358). -/
def faultOldAddress (f : Fault) : Addr := (faultState f).ia + BitVec.ofNat 64 (faultLength f)

/-! ### Registers and the condition code -/

/-- The contents of vector register `r` (R10). -/
def State.vrAt (s : State) (r : VReg) : V128 := s.vr.get r.toFin

/-- The contents of general register `r` (R10). -/
def State.grAt (s : State) (r : GReg) : Word64 := s.gr.get r.toFin

/-- Whether vector register `r` holds a supplied or written value (R44). -/
def State.vrHeld (s : State) (r : VReg) : Bool := s.vrSupplied.get r.toFin

/-- Whether general register `r` holds a supplied or written value (R44). -/
def State.grHeld (s : State) (r : GReg) : Bool := s.grSupplied.get r.toFin

/-- `n` free values have been drawn. -/
def State.drawnTimes (s : State) (n : Nat) : State := { s with draws := s.draws + n }

/-- One free value has been drawn. -/
def State.drawn (s : State) : State := s.drawnTimes 1

/-- `s` with memory `m`. -/
def State.withMem (s : State) (m : Mem) : State := { s with mem := m }

/-- Whether reading an unwritten register or CC draws a value instead of ending the step (R44). -/
def State.drawsUnwritten (s : State) : Bool := s.params.unwrittenRead == .draw

/-- Whether vector register `r` can be read: it holds a value, or UNWRITTEN_READ = DRAW (R44). -/
def State.vrReadable (s : State) (r : VReg) : Bool := s.vrHeld r || s.drawsUnwritten

/-- Whether general register `r` can be read (R44). -/
def State.grReadable (s : State) (r : GReg) : Bool := s.grHeld r || s.drawsUnwritten

/-- Whether the CC can be read (R44). -/
def State.ccReadable (s : State) : Bool := s.ccSupplied || s.drawsUnwritten

/-- What a read of vector register `r` returns: its contents, or where it holds none a fresh draw (R10, R44). -/
def State.vrValue (s : State) (r : VReg) : V128 := if s.vrHeld r then s.vrAt r else Config.unwrittenVR s.draws

/-- What a read of general register `r` returns (R10, R44). -/
def State.grValue (s : State) (r : GReg) : Word64 := if s.grHeld r then s.grAt r else Config.unwrittenGR s.draws

/-- What a read of the CC returns (R10, R44). -/
def State.ccValue (s : State) : CondCode := if s.ccSupplied then s.cc else Config.unwrittenCC s.draws

/-- The state after a read of vector register `r`: a draw was used where it holds no value. -/
def State.afterVR (s : State) (r : VReg) : State := if s.vrHeld r then s else s.drawn

/-- The state after a read of general register `r`. -/
def State.afterGR (s : State) (r : GReg) : State := if s.grHeld r then s else s.drawn

/-- The state after a read of the CC. -/
def State.afterCC (s : State) : State := if s.ccSupplied then s else s.drawn

/-- Whether the base or index field `b` can be read: 0 names no register (R10, R35). -/
def State.baseReadable (s : State) (b : GReg) : Bool := b == 0#4 || s.grReadable b

/-- `BASE(b)` (R10, R35): 0 when the field is 0, else the general register. -/
def State.baseValue (s : State) (b : GReg) : Word64 := if b = 0#4 then 0#64 else s.grValue b

/-- The state after a read of `BASE(b)`. -/
def State.afterBase (s : State) (b : GReg) : State := if b = 0#4 then s else s.afterGR b

/-- `x = VR[r]`, then `k x` (R10); a register that holds no value is read as UNWRITTEN_READ says (R44). -/
def readVR (s : State) (r : VReg) (k : V128 → State → Result) : Result :=
  if s.vrReadable r then k (s.vrValue r) (s.afterVR r) else .refused .unwrittenRead

/-- `x = GR[r]`, then `k x` (R10, R44). -/
def readGR (s : State) (r : GReg) (k : Word64 → State → Result) : Result :=
  if s.grReadable r then k (s.grValue r) (s.afterGR r) else .refused .unwrittenRead

/-- `x = CC`, then `k x` (R10, R44). -/
def readCC (s : State) (k : CondCode → State → Result) : Result :=
  if s.ccReadable then k s.ccValue s.afterCC else .refused .unwrittenRead

/-- `x = BASE(b)`, then `k x` (R10, R35, R44). -/
def readBase (s : State) (b : GReg) (k : Word64 → State → Result) : Result :=
  if s.baseReadable b then k (s.baseValue b) (s.afterBase b) else .refused .unwrittenRead

/-- `VR[r] <- v` (R10). -/
def State.writeVR (s : State) (r : VReg) (v : V128) : State :=
  { s with vr := s.vr.set r.toNat v r.isLt, vrSupplied := s.vrSupplied.set r.toNat true r.isLt }

/-- `GR[r] <- v` (R10). -/
def State.writeGR (s : State) (r : GReg) (v : Word64) : State :=
  { s with gr := s.gr.set r.toNat v r.isLt, grSupplied := s.grSupplied.set r.toNat true r.isLt }

/-- `CC <- c` (R10). -/
def State.writeCC (s : State) (c : CondCode) : State := { s with cc := c, ccSupplied := true }

/-- The value of a general register whose bits 31:0 become `x`; bits 63:32 keep their value (R36, D36). -/
def withLow32 (old : Word64) (x : BitVec 32) : Word64 := old.extractLsb' 32 32 ++ x

/-- Bits 31:0 of a general register's value (R36). -/
def low32 (x : Word64) : BitVec 32 := x.extractLsb' 0 32

/-! ### Memory access by an instruction -/

/-- `x = MemRead(a, n)`, then `k x` with the `n` bytes in access order (R12). A refused byte raises ACCESS for the first
one, and nothing changes (R352, R355, R356). -/
def memRead (s : State) (m : Mnemonic) (a : Addr) (n : Nat) (k : List Byte → Result) : Result :=
  match s.mem.firstRefused .read a n with
  | some (p, code) => raiseAccess s m (byteAddr a p) .read code
  | none => k (s.mem.bytesAt a n)

/-- `MemWrite` of the bytes at `a` (R12). When the byte at position p is the first refused, ACCESS is raised for it, the
bytes from p on are not written, and each byte before p is written as PARTIAL_STORE draws (R352, R357; DEDUCED, safe, log entry
10). -/
def memWrite (s : State) (m : Mnemonic) (a : Addr) (bs : List Byte) : Result :=
  match s.mem.firstRefused .write a bs.length with
  | some (p, code) =>
    raiseAccess ((s.withMem (s.mem.writeDrawn a s.draws (bs.take p))).drawnTimes p) m (byteAddr a p) .write code
  | none => .next (s.withMem (s.mem.writeBytes a bs))

/-- What a load/store-on-condition whose condition is false does with its operand of `n` bytes at `a` (R325): nothing is
read, written or changed; under LOC_FALSE_ACCESS = MAY it may raise ACCESS for the first refused byte. DEDUCED: that
no byte is written (safe), and that the direction of a store is write (unsafe) (log entry 9). -/
def falseAccess (s : State) (m : Mnemonic) (dir : Direction) (a : Addr) (n : Nat) : Result :=
  match s.params.locFalseAccess with
  | .never => .next s
  | .may =>
    match s.mem.firstRefused dir a n with
    | none => .next s
    | some (p, code) =>
      if Config.locFalseFaults s.draws then raiseAccess s.drawn m (byteAddr a p) dir code else .next s.drawn

/-! ### The interface with the enclosing CPU -/

/-- Done: the caller advances its instruction address by the length, modulo 2^64, and the bytes after the instruction
are the next to be handed (R38, R42). -/
def State.advance (s : State) (len : Nat) (rest : List Byte) : State :=
  { s with stream := rest, ia := s.ia + BitVec.ofNat 64 len }

/-- What the step answers when an instruction of `len` bytes gave `o`: the address advances on Done and not on a fault
(R38). -/
def finishStep (len : Nat) (rest : List Byte) : Result → Result
  | .next s => .next (s.advance len rest)
  | .fault f => .fault f
  | .refused r => .refused r

/-- The caller hands these bytes next. -/
def State.handBytes (s : State) (bs : List Byte) : State := { s with stream := bs }

end Sys2Proof.Machine
end

