-- ==== Sys2Proof/Machine/Operands.lean ====
section
/-! DEFINITION. Operand forms: effective addresses, lengths and immediates (30_encoding.md R109 to R114; 45_element_memory.md
R290, R295, R298; 46_predicate.md R325). -/

namespace Sys2Proof.Machine

/-- The address of the VRV format: base + displacement + the unsigned offset element (R109, R290). -/
def vrvAddress (base : Word64) (d2 : BitVec 12) (offsets : V128) (w : Nat) (m3 : MField) : Addr :=
  base + d2.setWidth 64 + (elem offsets w m3.toNat).setWidth 64

/-- The address of the VRS-b format (R109, R295). -/
def vrsAddress (base : Word64) (d2 : BitVec 12) : Addr := base + d2.setWidth 64

/-- The address of the RXE format, which LCBB computes and never accesses (R109, R298). -/
def rxeAddress (index base : Word64) (d2 : BitVec 12) : Addr := index + base + d2.setWidth 64

/-- The address of the RSY-b format, with its signed displacement (R110, R325). -/
def rsyAddress (base : Word64) (d2 : BitVec 20) : Addr := base + d2.signExtend 64

/-- L of VLL and VSTL: `min(count + 1, 16)` with the count in bits 31:0, on integers (R295). -/
def boundedLength (r3 : Word64) : Nat := min ((low32 r3).toNat + 1) 16

/-- LCBB's block size of a code 0 to 6: 64 * 2^m3 (R298). -/
def blockSize (m3 : MField) : Nat := 64 * 2 ^ m3.toNat

/-- LCBB's count `min(16, bs - (ea mod bs))` (R298). -/
def blockCount (ea : Addr) (bs : Nat) : Nat := min 16 (bs - ea.toNat % bs)

/-- The CS bit of M5, ibit 3 (R112). -/
def csBit (m5 : MField) : Bool := m5.getLsbD 0

/-- VPDI's selector of the doubleword of V2: M4 ibit 1, of value 4 (R112, R266). -/
def vpdiSelectV2 (m4 : MField) : Nat := if m4 &&& 4#4 ≠ 0#4 then 1 else 0

/-- VPDI's selector of the doubleword of V3: M4 ibit 3, of value 1 (R112, R266). -/
def vpdiSelectV3 (m4 : MField) : Nat := if m4 &&& 1#4 ≠ 0#4 then 1 else 0

end Sys2Proof.Machine
end

