-- ==== Sys2Proof/Machine/ElementMemory.lean ====
section
/-! DEFINITION. Gather, scatter, load and store with length, and load count to block boundary (45_element_memory.md). -/

namespace Sys2Proof.Machine

/-- Gather one element of `w` bytes: read-modify of element `m3` of V1 (R290 to R292). -/
def gather (s : State) (m : Mnemonic) (w : Nat) (v1 : VReg) (d2 : BitVec 12) (v2 : VReg) (b2 : GReg) (m3 : MField) :
    Result :=
  readVR s v1 fun old s =>
  readBase s b2 fun base s =>
  readVR s v2 fun offsets s =>
  if elemCount w ≤ m3.toNat then raiseSpecification s m .m3 m3.toNat
  else
    memRead s m (vrvAddress base d2 offsets w m3) w fun bs =>
    .next (s.writeVR v1 (setElem old w m3.toNat (beWord w bs)))

/-- Scatter element `m3` of V1, of `w` bytes (R290, R293, R294). -/
def scatter (s : State) (m : Mnemonic) (w : Nat) (v1 : VReg) (d2 : BitVec 12) (v2 : VReg) (b2 : GReg) (m3 : MField) :
    Result :=
  readVR s v1 fun v s =>
  readBase s b2 fun base s =>
  readVR s v2 fun offsets s =>
  if elemCount w ≤ m3.toNat then raiseSpecification s m .m3 m3.toNat
  else memWrite s m (vrvAddress base d2 offsets w m3) (beBytes w (elem v w m3.toNat))

/-- VGEF, Vector Gather Element, word (R291). -/
def execVgef (v1 : VReg) (d2 : BitVec 12) (v2 : VReg) (b2 : GReg) (m3 : MField) (s : State) : Result :=
  gather s .vgef 4 v1 d2 v2 b2 m3

/-- VGEG, Vector Gather Element, doubleword (R292). -/
def execVgeg (v1 : VReg) (d2 : BitVec 12) (v2 : VReg) (b2 : GReg) (m3 : MField) (s : State) : Result :=
  gather s .vgeg 8 v1 d2 v2 b2 m3

/-- VSCEF, Vector Scatter Element, word (R293). -/
def execVscef (v1 : VReg) (d2 : BitVec 12) (v2 : VReg) (b2 : GReg) (m3 : MField) (s : State) : Result :=
  scatter s .vscef 4 v1 d2 v2 b2 m3

/-- VSCEG, Vector Scatter Element, doubleword (R294). -/
def execVsceg (v1 : VReg) (d2 : BitVec 12) (v2 : VReg) (b2 : GReg) (m3 : MField) (s : State) : Result :=
  scatter s .vsceg 8 v1 d2 v2 b2 m3

/-- What VLL's destination holds before the loaded bytes are put in (R296): V1's old value, read only when fewer than 16
bytes are loaded and VLL_TAIL = PRESERVE, else zero. -/
def readTail (s : State) (v1 : VReg) (len : Nat) (k : V128 → State → Result) : Result :=
  if len < 16 then
    match s.params.vllTail with
    | .preserve => readVR s v1 k
    | .zero => k 0#128 s
  else k 0#128 s

/-- VLL, Vector Load With Length (R295, R296). -/
def execVll (v1 : VReg) (r3 : GReg) (d2 : BitVec 12) (b2 : GReg) (s : State) : Result :=
  readGR s r3 fun count s =>
  readBase s b2 fun base s =>
  readTail s v1 (boundedLength count) fun old s =>
  memRead s .vll (vrsAddress base d2) (boundedLength count) fun bs =>
  .next (s.writeVR v1 (fillElems 1 0 old bs))

/-- VSTL, Vector Store With Length (R295, R297). -/
def execVstl (v1 : VReg) (r3 : GReg) (d2 : BitVec 12) (b2 : GReg) (s : State) : Result :=
  readGR s r3 fun count s =>
  readBase s b2 fun base s =>
  readVR s v1 fun v s =>
  memWrite s .vstl (vrsAddress base d2) ((List.range (boundedLength count)).map fun j => elem v 1 j)

/-- LCBB, Load Count to Block Boundary (R298). DEDUCED, safe: keeping bits 63:32 of R1 reads it (log entry 13). -/
def execLcbb (r1 : GReg) (d2 : BitVec 12) (x2 b2 : GReg) (m3 : MField) (s : State) : Result :=
  readBase s x2 fun index s =>
  readBase s b2 fun base s =>
  readGR s r1 fun old s =>
  if 6 < m3.toNat then raiseSpecification s .lcbb .m3 m3.toNat
  else
    let n := blockCount (rxeAddress index base d2) (blockSize m3)
    .next ((s.writeGR r1 (withLow32 old (BitVec.ofNat 32 n))).writeCC (blockCC n))

end Sys2Proof.Machine
end

