-- ==== Sys2Proof/Machine/LaneArith.lean ====
section
/-! DEFINITION. Partitioned lane arithmetic and logic: VA to VMLO (41_lane_arith.md). -/

namespace Sys2Proof.Machine

/-- The shape of a three-register instruction: read V2 and V3, raise SPECIFICATION unless the size code is legal, write V1
(R14, R351, R355). DEDUCED, safe: here and in every meaning the sources are read before the codes are checked (log entry
12). -/
def vectorBinary (s : State) (m : Mnemonic) (v1 v2 v3 : VReg) (m4 : MField) (legal : Bool) (f : V128 → V128 → V128) :
    Result :=
  readVR s v2 fun a s =>
  readVR s v3 fun b s =>
  if legal then .next (s.writeVR v1 (f a b)) else raiseSpecification s m .m4 m4.toNat

/-- The shape of a three-register instruction without an element size (R143 to R147): no exception. -/
def vectorLogic (s : State) (v1 v2 v3 : VReg) (f : V128 → V128 → V128) : Result :=
  readVR s v2 fun a s =>
  readVR s v3 fun b s =>
  .next (s.writeVR v1 (f a b))

/-- The shape of the lane-by-lane instructions (R17, R141): element sizes 0 to `maxCode`. -/
def laneBinary (s : State) (m : Mnemonic) (v1 v2 v3 : VReg) (m4 : MField) (maxCode : Nat) (op : Int → Int → Int)
    (sg : Sign) (rg : ElementRange) (ow : OutWidth) : Result :=
  vectorBinary s m v1 v2 v3 m4 (m4.toNat ≤ maxCode) fun a b => laneApply op a b (width m4) sg rg ow

/-- VA, Vector Add (R141). -/
def execVa (v1 v2 v3 : VReg) (m4 : MField) (s : State) : Result :=
  laneBinary s .va v1 v2 v3 m4 4 (fun x y => x + y) .unsigned .full .same

/-- VS, Vector Subtract: V2 minus V3 (R142). -/
def execVs (v1 v2 v3 : VReg) (m4 : MField) (s : State) : Result :=
  laneBinary s .vs v1 v2 v3 m4 4 (fun x y => x - y) .unsigned .full .same

/-- VN, Vector AND (R143). -/
def execVn (v1 v2 v3 : VReg) (s : State) : Result :=
  vectorLogic s v1 v2 v3 fun a b => a &&& b

/-- VNC, Vector AND with Complement: V3 is complemented (R144). -/
def execVnc (v1 v2 v3 : VReg) (s : State) : Result :=
  vectorLogic s v1 v2 v3 fun a b => a &&& ~~~b

/-- VO, Vector OR (R145). -/
def execVo (v1 v2 v3 : VReg) (s : State) : Result :=
  vectorLogic s v1 v2 v3 fun a b => a ||| b

/-- VNO, Vector NOR (R146). -/
def execVno (v1 v2 v3 : VReg) (s : State) : Result :=
  vectorLogic s v1 v2 v3 fun a b => ~~~(a ||| b)

/-- VX, Vector Exclusive OR (R147). -/
def execVx (v1 v2 v3 : VReg) (s : State) : Result :=
  vectorLogic s v1 v2 v3 fun a b => a ^^^ b

/-- VAVG, Vector Average, signed (R149). -/
def execVavg (v1 v2 v3 : VReg) (m4 : MField) (s : State) : Result :=
  laneBinary s .vavg v1 v2 v3 m4 4 (avg s.params.avgRound) .signed .full .same

/-- VAVGL, Vector Average Logical (R150). -/
def execVavgl (v1 v2 v3 : VReg) (m4 : MField) (s : State) : Result :=
  laneBinary s .vavgl v1 v2 v3 m4 4 (avg s.params.avgRound) .unsigned .full .same

/-- VMX, Vector Maximum, signed (R151). -/
def execVmx (v1 v2 v3 : VReg) (m4 : MField) (s : State) : Result :=
  laneBinary s .vmx v1 v2 v3 m4 4 max .signed .full .same

/-- VMXL, Vector Maximum Logical (R152). -/
def execVmxl (v1 v2 v3 : VReg) (m4 : MField) (s : State) : Result :=
  laneBinary s .vmxl v1 v2 v3 m4 4 max .unsigned .full .same

/-- VMN, Vector Minimum, signed (R153). -/
def execVmn (v1 v2 v3 : VReg) (m4 : MField) (s : State) : Result :=
  laneBinary s .vmn v1 v2 v3 m4 4 min .signed .full .same

/-- VMNL, Vector Minimum Logical (R154). -/
def execVmnl (v1 v2 v3 : VReg) (m4 : MField) (s : State) : Result :=
  laneBinary s .vmnl v1 v2 v3 m4 4 min .unsigned .full .same

/-- VML, Vector Multiply Low (R155). -/
def execVml (v1 v2 v3 : VReg) (m4 : MField) (s : State) : Result :=
  laneBinary s .vml v1 v2 v3 m4 2 (fun x y => x * y) .unsigned .full .same

/-- VMH, Vector Multiply High, signed (R156). -/
def execVmh (v1 v2 v3 : VReg) (m4 : MField) (s : State) : Result :=
  laneBinary s .vmh v1 v2 v3 m4 2 (mulHigh (width m4)) .signed .full .same

/-- VMLH, Vector Multiply Logical High (R157). -/
def execVmlh (v1 v2 v3 : VReg) (m4 : MField) (s : State) : Result :=
  laneBinary s .vmlh v1 v2 v3 m4 2 (mulHigh (width m4)) .unsigned .full .same

/-- VME, Vector Multiply Even, signed and widening (R158). -/
def execVme (v1 v2 v3 : VReg) (m4 : MField) (s : State) : Result :=
  laneBinary s .vme v1 v2 v3 m4 2 (fun x y => x * y) .signed .even .widened

/-- VMLE, Vector Multiply Logical Even (R159). -/
def execVmle (v1 v2 v3 : VReg) (m4 : MField) (s : State) : Result :=
  laneBinary s .vmle v1 v2 v3 m4 2 (fun x y => x * y) .unsigned .even .widened

/-- VMO, Vector Multiply Odd, signed and widening (R160). -/
def execVmo (v1 v2 v3 : VReg) (m4 : MField) (s : State) : Result :=
  laneBinary s .vmo v1 v2 v3 m4 2 (fun x y => x * y) .signed .odd .widened

/-- VMLO, Vector Multiply Logical Odd (R161). -/
def execVmlo (v1 v2 v3 : VReg) (m4 : MField) (s : State) : Result :=
  laneBinary s .vmlo v1 v2 v3 m4 2 (fun x y => x * y) .unsigned .odd .widened

end Sys2Proof.Machine
end

