-- ==== Sys2Proof/Machine/LaneUnary.lean ====
section
/-! DEFINITION. Unary lane operators: VLC, VLP, VPOPCT, VCLZ, VCTZ (42_lane_unary.md). -/

namespace Sys2Proof.Machine

/-- The shape of a two-register instruction: read V2, raise SPECIFICATION unless the size code M3 is legal, write V1 (R200,
R351, R355). -/
def vectorUnary (s : State) (m : Mnemonic) (v1 v2 : VReg) (m3 : MField) (maxCode : Nat) (f : V128 → V128) : Result :=
  readVR s v2 fun a s =>
  if m3.toNat ≤ maxCode then .next (s.writeVR v1 (f a)) else raiseSpecification s m .m3 m3.toNat

/-- VLC, Vector Load Complement: two's-complement negation (R201). -/
def execVlc (v1 v2 : VReg) (m3 : MField) (s : State) : Result :=
  vectorUnary s .vlc v1 v2 m3 3 fun a => laneApply1 (fun x => -x) a (width m3) .signed .full .same

/-- VLP, Vector Load Positive: absolute value (R202). -/
def execVlp (v1 v2 : VReg) (m3 : MField) (s : State) : Result :=
  vectorUnary s .vlp v1 v2 m3 3 fun a => laneApply1 (fun x => |x|) a (width m3) .signed .full .same

/-- VPOPCT, Vector Population Count, of bytes only (R203). -/
def execVpopct (v1 v2 : VReg) (m3 : MField) (s : State) : Result :=
  vectorUnary s .vpopct v1 v2 m3 0 fun a => laneApply1 (popcount (8 * width m3)) a (width m3) .unsigned .full .same

/-- VCLZ, Vector Count Leading Zeros (R204). -/
def execVclz (v1 v2 : VReg) (m3 : MField) (s : State) : Result :=
  vectorUnary s .vclz v1 v2 m3 3 fun a => laneApply1 (countLeadingZeros (8 * width m3)) a (width m3) .unsigned .full .same

/-- VCTZ, Vector Count Trailing Zeros (R205). -/
def execVctz (v1 v2 : VReg) (m3 : MField) (s : State) : Result :=
  vectorUnary s .vctz v1 v2 m3 3 fun a => laneApply1 (countTrailingZeros (8 * width m3)) a (width m3) .unsigned .full .same

end Sys2Proof.Machine
end

