-- ==== Sys2Proof/Machine/PackUnpack.lean ====
section
/-! DEFINITION. Saturating pack and sign- or zero-extending unpack (43_pack_unpack.md). -/

namespace Sys2Proof.Machine

/-- The element sizes of the packs are codes 1, 2 and 3 (R230 to R232). -/
def packLegal (m4 : MField) : Bool := decide (1 ≤ m4.toNat) && decide (m4.toNat ≤ 3)

/-- Pack the elements `xs`, of `w` bytes each, into elements of `w / 2` bytes (R228): each is saturated to `kind`, or its
low half is kept where `kind` is `none` (R230 to R232). -/
def packElems (w : Nat) (kind : Option Sign) (xs : List Int) : V128 :=
  ofElems (w / 2) <| xs.map fun x =>
    BitVec.ofInt (8 * (w / 2)) (match kind with | some k => sat x k (8 * (w / 2)) | none => x)

/-- How many of the elements saturate (R231, R232). -/
def saturatedCount (w : Nat) (k : Sign) (xs : List Int) : Nat := (xs.filter fun x => saturated x k (8 * (w / 2))).length

/-- The shape of the saturating packs: read V2 and V3, raise SPECIFICATION unless the size code is legal, write V1 and, when
CS is 1, the CC (R231, R232, R233). Elements are read per `src` and saturated to `dst`. -/
def packSaturate (s : State) (m : Mnemonic) (v1 v2 v3 : VReg) (m4 m5 : MField) (src dst : Sign) : Result :=
  readVR s v2 fun a s =>
  readVR s v3 fun b s =>
  if packLegal m4 then
    let xs := packSources src a b (width m4)
    let t := s.writeVR v1 (packElems (width m4) (some dst) xs)
    .next (if csBit m5 then t.writeCC (packCC (saturatedCount (width m4) dst xs) xs.length) else t)
  else raiseSpecification s m .m4 m4.toNat

/-- How VPKLS reads its source elements, as PKLS_SRC says (R232). -/
def pklsSign (p : Config.PklsSrc) : Sign :=
  match p with
  | .signed => .signed
  | .unsigned => .unsigned

/-- VPK, Vector Pack, truncating (R230). -/
def execVpk (v1 v2 v3 : VReg) (m4 : MField) (s : State) : Result :=
  vectorBinary s .vpk v1 v2 v3 m4 (packLegal m4) fun a b =>
    packElems (width m4) none (packSources .unsigned a b (width m4))

/-- VPKS, Vector Pack Saturate, signed to signed (R231). -/
def execVpks (v1 v2 v3 : VReg) (m4 m5 : MField) (s : State) : Result :=
  packSaturate s .vpks v1 v2 v3 m4 m5 .signed .signed

/-- VPKLS, Vector Pack Logical Saturate, to unsigned (R232). -/
def execVpkls (v1 v2 v3 : VReg) (m4 m5 : MField) (s : State) : Result :=
  packSaturate s .vpkls v1 v2 v3 m4 m5 (pklsSign s.params.pklsSrc) .unsigned

/-- The shape of the unpacks (R229): the elements of half the register, extended to twice their width. -/
def unpack (s : State) (m : Mnemonic) (v1 v2 : VReg) (m3 : MField) (sg : Sign) (rg : ElementRange) : Result :=
  vectorUnary s m v1 v2 m3 2 fun a => laneApply1 (fun x => x) a (width m3) sg rg .widened

/-- VUPH, Vector Unpack High, sign-extending (R234). -/
def execVuph (v1 v2 : VReg) (m3 : MField) (s : State) : Result := unpack s .vuph v1 v2 m3 .signed .high

/-- VUPL, Vector Unpack Low, sign-extending (R235). -/
def execVupl (v1 v2 : VReg) (m3 : MField) (s : State) : Result := unpack s .vupl v1 v2 m3 .signed .low

/-- VUPLH, Vector Unpack Logical High, zero-extending (R236). -/
def execVuplh (v1 v2 : VReg) (m3 : MField) (s : State) : Result := unpack s .vuplh v1 v2 m3 .unsigned .high

/-- VUPLL, Vector Unpack Logical Low, zero-extending (R237). -/
def execVupll (v1 v2 : VReg) (m3 : MField) (s : State) : Result := unpack s .vupll v1 v2 m3 .unsigned .low

end Sys2Proof.Machine
end

