-- ==== Sys2Proof/Machine/Permute.lean ====
section
/-! DEFINITION. The byte permute network, the bitwise selector, merge, replicate and doubleword permute (44_permute.md). -/

namespace Sys2Proof.Machine

/-- The bytes of `a ++ b` that the low 5 bits of the selector bytes choose (R260). -/
def permuteBytes (a b sel : V128) : V128 :=
  ofElems 1 <| (List.range 16).map fun i =>
    let j := (elem sel 1 i).toNat % 32
    if j < 16 then elem a 1 j else elem b 1 (j - 16)

/-- The bits of `a` where the mask is 1, those of `b` where it is 0 (R261). -/
def selectBits (a b mask : V128) : V128 := (b &&& ~~~mask) ||| (a &&& mask)

/-- The elements of `a` and `b` from `start` on, interleaved (R262, R263). -/
def mergeElems (w start : Nat) (a b : V128) : V128 :=
  ofElems w <| (List.range (elemCount w)).map fun j =>
    if j % 2 = 0 then elem a w (start + j / 2) else elem b w (start + j / 2)

/-- Every element equal to `x` (R264, R265). -/
def replicateElem (w : Nat) (x : BitVec (8 * w)) : V128 := ofElems w (List.replicate (elemCount w) x)

/-- The shape of VPERM and VSEL: read V2, V3 and V4, write V1 (R14, R260, R261). -/
def vectorTernary (s : State) (v1 v2 v3 v4 : VReg) (f : V128 → V128 → V128 → V128) : Result :=
  readVR s v2 fun a s =>
  readVR s v3 fun b s =>
  readVR s v4 fun c s =>
  .next (s.writeVR v1 (f a b c))

/-- VPERM, Vector Permute (R260). -/
def execVperm (v1 v2 v3 v4 : VReg) (s : State) : Result := vectorTernary s v1 v2 v3 v4 permuteBytes

/-- VSEL, Vector Select (R261). -/
def execVsel (v1 v2 v3 v4 : VReg) (s : State) : Result := vectorTernary s v1 v2 v3 v4 selectBits

/-- VMRH, Vector Merge High (R262). -/
def execVmrh (v1 v2 v3 : VReg) (m4 : MField) (s : State) : Result :=
  vectorBinary s .vmrh v1 v2 v3 m4 (m4.toNat ≤ 3) fun a b => mergeElems (width m4) 0 a b

/-- VMRL, Vector Merge Low (R263). -/
def execVmrl (v1 v2 v3 : VReg) (m4 : MField) (s : State) : Result :=
  vectorBinary s .vmrl v1 v2 v3 m4 (m4.toNat ≤ 3) fun a b => mergeElems (width m4) (elemCount (width m4) / 2) a b

/-- VREP, Vector Replicate of the element `i2` of V3 (R264). -/
def execVrep (v1 v3 : VReg) (i2 : BitVec 16) (m4 : MField) (s : State) : Result :=
  readVR s v3 fun a s =>
  if 3 < m4.toNat then raiseSpecification s .vrep .m4 m4.toNat
  else if elemCount (width m4) ≤ i2.toNat then raiseSpecification s .vrep .i2 i2.toNat
  else .next (s.writeVR v1 (replicateElem (width m4) (elem a (width m4) i2.toNat)))

/-- VREPI, Vector Replicate Immediate (R111, R265). -/
def execVrepi (v1 : VReg) (i2 : BitVec 16) (m3 : MField) (s : State) : Result :=
  if 3 < m3.toNat then raiseSpecification s .vrepi .m3 m3.toNat
  else .next (s.writeVR v1 (replicateElem (width m3) (BitVec.ofInt (8 * width m3) i2.toInt)))

/-- VPDI, Vector Permute Doubleword Immediate (R266). -/
def execVpdi (v1 v2 v3 : VReg) (m4 : MField) (s : State) : Result :=
  vectorLogic s v1 v2 v3 fun a b => elem a 8 (vpdiSelectV2 m4) ++ elem b 8 (vpdiSelectV3 m4)

end Sys2Proof.Machine
end

