-- ==== Sys2Proof/Machine/Predicate.lean ====
section
/-! DEFINITION. Compare-high masks and load/store-on-condition (46_predicate.md). -/

namespace Sys2Proof.Machine

/-- How many elements of `a` are greater than those of `b` (R320). -/
def highCount (sg : Sign) (a b : V128) (w : Nat) : Nat :=
  ((List.range (elemCount w)).filter fun i => decide (readElem sg a w i > readElem sg b w i)).length

/-- The shape of VCH and VCHL: read V2 and V3, raise SPECIFICATION unless the size code is legal, write the mask and, when CS
is 1, the CC (R320, R321). -/
def compareHigh (s : State) (m : Mnemonic) (v1 v2 v3 : VReg) (m4 m5 : MField) (sg : Sign) : Result :=
  readVR s v2 fun a s =>
  readVR s v3 fun b s =>
  if m4.toNat ≤ 3 then
    let t := s.writeVR v1 (laneApply (highMask (width m4)) a b (width m4) sg .full .same)
    .next (if csBit m5 then t.writeCC (compareCC (highCount sg a b (width m4)) (elemCount (width m4))) else t)
  else raiseSpecification s m .m4 m4.toNat

/-- VCH, Vector Compare High, signed (R320). -/
def execVch (v1 v2 v3 : VReg) (m4 m5 : MField) (s : State) : Result := compareHigh s .vch v1 v2 v3 m4 m5 .signed

/-- VCHL, Vector Compare High Logical (R321). -/
def execVchl (v1 v2 v3 : VReg) (m4 m5 : MField) (s : State) : Result := compareHigh s .vchl v1 v2 v3 m4 m5 .unsigned

/-- LOCR, Load On Condition, 32-bit register (R323). DEDUCED, safe: keeping bits 63:32 of R1 reads it (log entry 13). -/
def execLocr (r1 r2 : GReg) (m3 : MField) (s : State) : Result :=
  readCC s fun cc s =>
  if condHolds m3 cc then
    readGR s r1 fun old s =>
    readGR s r2 fun x s =>
    .next (s.writeGR r1 (withLow32 old (low32 x)))
  else .next s

/-- LOCGR, Load On Condition, 64-bit register (R324). -/
def execLocgr (r1 r2 : GReg) (m3 : MField) (s : State) : Result :=
  readCC s fun cc s =>
  if condHolds m3 cc then
    readGR s r2 fun x s =>
    .next (s.writeGR r1 x)
  else .next s

/-- LOC, Load On Condition, 32 bits from storage (R325, R327). -/
def execLoc (r1 : GReg) (d2 : BitVec 20) (b2 : GReg) (m3 : MField) (s : State) : Result :=
  readBase s b2 fun base s =>
  readCC s fun cc s =>
  if condHolds m3 cc then
    readGR s r1 fun old s =>
    memRead s .loc (rsyAddress base d2) 4 fun bs =>
    .next (s.writeGR r1 (withLow32 old (beWord 4 bs)))
  else falseAccess s .loc .read (rsyAddress base d2) 4

/-- LOCG, Load On Condition, 64 bits from storage (R325, R326). -/
def execLocg (r1 : GReg) (d2 : BitVec 20) (b2 : GReg) (m3 : MField) (s : State) : Result :=
  readBase s b2 fun base s =>
  readCC s fun cc s =>
  if condHolds m3 cc then
    memRead s .locg (rsyAddress base d2) 8 fun bs =>
    .next (s.writeGR r1 (beWord 8 bs))
  else falseAccess s .locg .read (rsyAddress base d2) 8

/-- STOC, Store On Condition, 32 bits (R325, R329). -/
def execStoc (r1 : GReg) (d2 : BitVec 20) (b2 : GReg) (m3 : MField) (s : State) : Result :=
  readBase s b2 fun base s =>
  readCC s fun cc s =>
  if condHolds m3 cc then
    readGR s r1 fun x s =>
    memWrite s .stoc (rsyAddress base d2) (beBytes 4 (low32 x))
  else falseAccess s .stoc .write (rsyAddress base d2) 4

/-- STOCG, Store On Condition, 64 bits (R325, R328). -/
def execStocg (r1 : GReg) (d2 : BitVec 20) (b2 : GReg) (m3 : MField) (s : State) : Result :=
  readBase s b2 fun base s =>
  readCC s fun cc s =>
  if condHolds m3 cc then
    readGR s r1 fun x s =>
    memWrite s .stocg (rsyAddress base d2) (beBytes 8 x)
  else falseAccess s .stocg .write (rsyAddress base d2) 8

end Sys2Proof.Machine
end

