-- ==== Sys2Proof/Machine/Dispatch.lean ====
section
/-! DEFINITION. One arm for each instruction: the call of its meaning. -/

namespace Sys2Proof.Machine

def exec (i : Instr) (s : State) : Host.Outcome State Fault Refusal :=
  match i with
  | .va v1 v2 v3 m4 => Sys2Proof.Machine.execVa v1 v2 v3 m4 s
  | .vs v1 v2 v3 m4 => Sys2Proof.Machine.execVs v1 v2 v3 m4 s
  | .vn v1 v2 v3 => Sys2Proof.Machine.execVn v1 v2 v3 s
  | .vnc v1 v2 v3 => Sys2Proof.Machine.execVnc v1 v2 v3 s
  | .vo v1 v2 v3 => Sys2Proof.Machine.execVo v1 v2 v3 s
  | .vno v1 v2 v3 => Sys2Proof.Machine.execVno v1 v2 v3 s
  | .vx v1 v2 v3 => Sys2Proof.Machine.execVx v1 v2 v3 s
  | .vavg v1 v2 v3 m4 => Sys2Proof.Machine.execVavg v1 v2 v3 m4 s
  | .vavgl v1 v2 v3 m4 => Sys2Proof.Machine.execVavgl v1 v2 v3 m4 s
  | .vmx v1 v2 v3 m4 => Sys2Proof.Machine.execVmx v1 v2 v3 m4 s
  | .vmxl v1 v2 v3 m4 => Sys2Proof.Machine.execVmxl v1 v2 v3 m4 s
  | .vmn v1 v2 v3 m4 => Sys2Proof.Machine.execVmn v1 v2 v3 m4 s
  | .vmnl v1 v2 v3 m4 => Sys2Proof.Machine.execVmnl v1 v2 v3 m4 s
  | .vml v1 v2 v3 m4 => Sys2Proof.Machine.execVml v1 v2 v3 m4 s
  | .vmh v1 v2 v3 m4 => Sys2Proof.Machine.execVmh v1 v2 v3 m4 s
  | .vmlh v1 v2 v3 m4 => Sys2Proof.Machine.execVmlh v1 v2 v3 m4 s
  | .vme v1 v2 v3 m4 => Sys2Proof.Machine.execVme v1 v2 v3 m4 s
  | .vmle v1 v2 v3 m4 => Sys2Proof.Machine.execVmle v1 v2 v3 m4 s
  | .vmo v1 v2 v3 m4 => Sys2Proof.Machine.execVmo v1 v2 v3 m4 s
  | .vmlo v1 v2 v3 m4 => Sys2Proof.Machine.execVmlo v1 v2 v3 m4 s
  | .vlc v1 v2 m3 => Sys2Proof.Machine.execVlc v1 v2 m3 s
  | .vlp v1 v2 m3 => Sys2Proof.Machine.execVlp v1 v2 m3 s
  | .vpopct v1 v2 m3 => Sys2Proof.Machine.execVpopct v1 v2 m3 s
  | .vclz v1 v2 m3 => Sys2Proof.Machine.execVclz v1 v2 m3 s
  | .vctz v1 v2 m3 => Sys2Proof.Machine.execVctz v1 v2 m3 s
  | .vpk v1 v2 v3 m4 => Sys2Proof.Machine.execVpk v1 v2 v3 m4 s
  | .vpks v1 v2 v3 m4 m5 => Sys2Proof.Machine.execVpks v1 v2 v3 m4 m5 s
  | .vpkls v1 v2 v3 m4 m5 => Sys2Proof.Machine.execVpkls v1 v2 v3 m4 m5 s
  | .vuph v1 v2 m3 => Sys2Proof.Machine.execVuph v1 v2 m3 s
  | .vupl v1 v2 m3 => Sys2Proof.Machine.execVupl v1 v2 m3 s
  | .vuplh v1 v2 m3 => Sys2Proof.Machine.execVuplh v1 v2 m3 s
  | .vupll v1 v2 m3 => Sys2Proof.Machine.execVupll v1 v2 m3 s
  | .vperm v1 v2 v3 v4 => Sys2Proof.Machine.execVperm v1 v2 v3 v4 s
  | .vsel v1 v2 v3 v4 => Sys2Proof.Machine.execVsel v1 v2 v3 v4 s
  | .vmrh v1 v2 v3 m4 => Sys2Proof.Machine.execVmrh v1 v2 v3 m4 s
  | .vmrl v1 v2 v3 m4 => Sys2Proof.Machine.execVmrl v1 v2 v3 m4 s
  | .vrep v1 v3 i2 m4 => Sys2Proof.Machine.execVrep v1 v3 i2 m4 s
  | .vrepi v1 i2 m3 => Sys2Proof.Machine.execVrepi v1 i2 m3 s
  | .vpdi v1 v2 v3 m4 => Sys2Proof.Machine.execVpdi v1 v2 v3 m4 s
  | .vgef v1 d2 v2 b2 m3 => Sys2Proof.Machine.execVgef v1 d2 v2 b2 m3 s
  | .vgeg v1 d2 v2 b2 m3 => Sys2Proof.Machine.execVgeg v1 d2 v2 b2 m3 s
  | .vscef v1 d2 v2 b2 m3 => Sys2Proof.Machine.execVscef v1 d2 v2 b2 m3 s
  | .vsceg v1 d2 v2 b2 m3 => Sys2Proof.Machine.execVsceg v1 d2 v2 b2 m3 s
  | .vll v1 r3 d2 b2 => Sys2Proof.Machine.execVll v1 r3 d2 b2 s
  | .vstl v1 r3 d2 b2 => Sys2Proof.Machine.execVstl v1 r3 d2 b2 s
  | .lcbb r1 d2 x2 b2 m3 => Sys2Proof.Machine.execLcbb r1 d2 x2 b2 m3 s
  | .vch v1 v2 v3 m4 m5 => Sys2Proof.Machine.execVch v1 v2 v3 m4 m5 s
  | .vchl v1 v2 v3 m4 m5 => Sys2Proof.Machine.execVchl v1 v2 v3 m4 m5 s
  | .locr r1 r2 m3 => Sys2Proof.Machine.execLocr r1 r2 m3 s
  | .locgr r1 r2 m3 => Sys2Proof.Machine.execLocgr r1 r2 m3 s
  | .loc r1 d2 b2 m3 => Sys2Proof.Machine.execLoc r1 d2 b2 m3 s
  | .locg r1 d2 b2 m3 => Sys2Proof.Machine.execLocg r1 d2 b2 m3 s
  | .stoc r1 d2 b2 m3 => Sys2Proof.Machine.execStoc r1 d2 b2 m3 s
  | .stocg r1 d2 b2 m3 => Sys2Proof.Machine.execStocg r1 d2 b2 m3 s

end Sys2Proof.Machine
end

