-- ==== Sys2Proof/Machine/Step.lean ====
section
/-! DEFINITION. One step of the block (10_state.md R42): decode the word at the front of the handed bytes and execute it. -/

namespace Sys2Proof.Machine

/-- The block's one operation (R42). Decoding is total (R93); a fault or a refusal ends the step (R355). -/
def step (s : State) : Host.Outcome State Fault Refusal :=
  match decode s.stream with
  | .instr i rest => finishStep i.length rest (exec i s)
  | .unknownEncoding => .refused .unknownEncoding
  | .reservedFieldNonzero => .refused .reservedFieldNonzero
  | .incomplete => .refused .noWord

/-- `s` with the opcode table's word `w` of `nbits` bits as the next the caller hands (R42, log entries 6 and 11). -/
def State.withFetchWord (s : State) (nbits w : Nat) : State := s.handBytes (tableBytes nbits w)

end Sys2Proof.Machine
end

