-- ==== Sys2Proof/Safety.lean ====
section
/-! DEFINITION. The terms claims are stated in: which states are good, what an instruction reads, writes and may change, and which
of its codes are illegal, each read off the instruction alone, as the tables of spec/ give them. -/

namespace Sys2Proof.Machine

/-! ### Good states -/

/-- Memory is in canonical form. -/
def State.wf (s : State) : Bool := s.mem.wf

/-- Every register and the CC holds a supplied or written value (R393 (a), (b)). -/
def State.AllSupplied (s : State) : Prop :=
  (∀ r, s.vrHeld r = true) ∧ (∀ r, s.grHeld r = true) ∧ s.ccSupplied = true

/-- `Mem` admits every byte of an access (R60). -/
def Admits (m : Mem) (dir : Direction) (a : Addr) (n : Nat) : Prop := ∀ j, j < n → m.refusal dir (byteAddr a j) = none

/-- Position `p` is the first of `n` that `Mem` refuses, with `code` attached (R352, R355). -/
def FirstRefused (m : Mem) (dir : Direction) (a : Addr) (n p : Nat) (code : Option Nat) : Prop :=
  p < n ∧ m.refusal dir (byteAddr a p) = some code ∧ Admits m dir a p

/-! ### What changes -/

/-- Address `a` lies outside the bytes stored to: `none` stores nothing. -/
def OutsideOf (stored : Option (Addr × Nat)) (a : Addr) : Prop :=
  ∀ b n, stored = some (b, n) → ∀ j, j < n → a ≠ byteAddr b j

/-- From `s` to `t` nothing changes but the vector register `vd`, the general register `gd`, the CC where `cc` is true, the
memory bytes `stored`, and the count of draws. -/
def ChangesOnly (s t : State) (vd : Option VReg) (gd : Option GReg) (cc : Bool) (stored : Option (Addr × Nat)) : Prop :=
  (∀ r, vd ≠ some r → t.vrAt r = s.vrAt r ∧ t.vrHeld r = s.vrHeld r) ∧
  (∀ r, gd ≠ some r → t.grAt r = s.grAt r ∧ t.grHeld r = s.grHeld r) ∧
  (cc = false → t.cc = s.cc ∧ t.ccSupplied = s.ccSupplied) ∧
  (∀ a, OutsideOf stored a → t.mem.byteAt a = s.mem.byteAt a) ∧
  t.mem.refusals = s.mem.refusals ∧ t.params = s.params ∧ t.stream = s.stream ∧ t.ia = s.ia

/-- The instruction completes; `P` holds of the values it reads from V2 and V3 and the value it leaves in V1; nothing but V1
changes (and the CC, where `cc` is true, of which `Q` holds of V2, V3 and the new CC). -/
def WritesFromTwo (i : Instr) (s : State) (v1 v2 v3 : VReg) (P : V128 → V128 → V128 → Prop) (cc : Bool := false)
    (Q : V128 → V128 → CondCode → Prop := fun _ _ _ => True) : Prop :=
  ∃ t, exec i s = .next t ∧
    P (s.vrValue v2) ((s.afterVR v2).vrValue v3) (t.vrAt v1) ∧ t.vrHeld v1 = true ∧
    (cc = true → Q (s.vrValue v2) ((s.afterVR v2).vrValue v3) t.cc ∧ t.ccSupplied = true) ∧
    ChangesOnly s t (some v1) none cc none

/-- The instruction completes; `P` holds of the value it reads from V2 and the value it leaves in V1; nothing but V1
changes. -/
def WritesFromOne (i : Instr) (s : State) (v1 v2 : VReg) (P : V128 → V128 → Prop) : Prop :=
  ∃ t, exec i s = .next t ∧ P (s.vrValue v2) (t.vrAt v1) ∧ t.vrHeld v1 = true ∧
    ChangesOnly s t (some v1) none false none

/-- Source element `j` of a pack: V2's elements, then V3's (R228). -/
def packSource (a b : V128) (w j : Nat) : BitVec (8 * w) :=
  if j < elemCount w then elem a w j else elem b w (j - elemCount w)

/-- The CC that counts which of `n` elements have a property (R233, R320): 0 when none has it, 3 when every one has, else 1. -/
def CCCounts (cc : CondCode) (n : Nat) (out : Nat → Prop) : Prop :=
  ((∀ j, j < n → ¬ out j) → cc = 0#2) ∧ ((∀ j, j < n → out j) → cc = 3#2) ∧
    ((∃ j, j < n ∧ out j) → (∃ j, j < n ∧ ¬ out j) → cc = 1#2)

/-- `s` with another CC, holding a value or not (R37, R44). -/
def State.replaceCC (s : State) (cc : CondCode) (held : Bool) : State := { s with cc := cc, ccSupplied := held }

/-! ### What an instruction writes (R36, R37, R68) -/

/-- The vector register an instruction writes. -/
def vrDest : Instr → Option VReg
  | .va v1 .. | .vs v1 .. | .vn v1 .. | .vnc v1 .. | .vo v1 .. | .vno v1 .. | .vx v1 .. | .vavg v1 .. | .vavgl v1 ..
  | .vmx v1 .. | .vmxl v1 .. | .vmn v1 .. | .vmnl v1 .. | .vml v1 .. | .vmh v1 .. | .vmlh v1 .. | .vme v1 ..
  | .vmle v1 .. | .vmo v1 .. | .vmlo v1 .. => some v1
  | .vlc v1 .. | .vlp v1 .. | .vpopct v1 .. | .vclz v1 .. | .vctz v1 .. => some v1
  | .vpk v1 .. | .vpks v1 .. | .vpkls v1 .. | .vuph v1 .. | .vupl v1 .. | .vuplh v1 .. | .vupll v1 .. => some v1
  | .vperm v1 .. | .vsel v1 .. | .vmrh v1 .. | .vmrl v1 .. | .vrep v1 .. | .vrepi v1 .. | .vpdi v1 .. => some v1
  | .vgef v1 .. | .vgeg v1 .. | .vll v1 .. | .vch v1 .. | .vchl v1 .. => some v1
  | .vscef .. | .vsceg .. | .vstl .. | .lcbb .. => none
  | .locr .. | .locgr .. | .loc .. | .locg .. | .stoc .. | .stocg .. => none

/-- The general register an instruction may write (R36). -/
def grDest : Instr → Option GReg
  | .lcbb r1 .. | .locr r1 .. | .locgr r1 .. | .loc r1 .. | .locg r1 .. => some r1
  | _ => none

/-- Whether an instruction writes the CC (R37): VCH, VCHL, VPKS and VPKLS with their CS bit one, and LCBB. -/
def setsCC : Instr → Bool
  | .vch _ _ _ _ m5 | .vchl _ _ _ _ m5 | .vpks _ _ _ _ m5 | .vpkls _ _ _ _ m5 => csBit m5
  | .lcbb .. => true
  | _ => false

/-- The bytes an instruction stores to: address and count (R68). The address is that of its own operand form, from the
values it reads. -/
def storedTo (i : Instr) (s : State) : Option (Addr × Nat) :=
  match i with
  | .vscef v1 d2 v2 b2 m3 =>
    some (vrvAddress ((s.afterVR v1).baseValue b2) d2 (((s.afterVR v1).afterBase b2).vrValue v2) 4 m3, 4)
  | .vsceg v1 d2 v2 b2 m3 =>
    some (vrvAddress ((s.afterVR v1).baseValue b2) d2 (((s.afterVR v1).afterBase b2).vrValue v2) 8 m3, 8)
  | .vstl _ r3 d2 b2 => some (vrsAddress ((s.afterGR r3).baseValue b2) d2, boundedLength (s.grValue r3))
  | .stoc _ d2 b2 m3 =>
    if condHolds m3 (s.afterBase b2).ccValue then some (rsyAddress (s.baseValue b2) d2, 4) else none
  | .stocg _ d2 b2 m3 =>
    if condHolds m3 (s.afterBase b2).ccValue then some (rsyAddress (s.baseValue b2) d2, 8) else none
  | _ => none

/-- Byte `j` of what a store instruction stores, from the values it reads (R293, R294, R297, R328, R329). -/
def storedByte (i : Instr) (s : State) (j : Nat) : Byte :=
  match i with
  | .vscef v1 _ _ _ m3 => elem (s.vrValue v1) 1 (4 * m3.toNat + j)
  | .vsceg v1 _ _ _ m3 => elem (s.vrValue v1) 1 (8 * m3.toNat + j)
  | .vstl v1 r3 _ b2 => elem (((s.afterGR r3).afterBase b2).vrValue v1) 1 j
  | .stoc r1 _ b2 _ => (((s.afterBase b2).afterCC).grValue r1).extractLsb' (8 * (3 - j)) 8
  | .stocg r1 _ b2 _ => (((s.afterBase b2).afterCC).grValue r1).extractLsb' (8 * (7 - j)) 8
  | _ => 0#8

/-! ### What an instruction reads -/

/-- The bytes an instruction loads: address and count (R68), from the values it reads. -/
def loadedFrom (i : Instr) (s : State) : Option (Addr × Nat) :=
  match i with
  | .vgef v1 d2 v2 b2 m3 =>
    some (vrvAddress ((s.afterVR v1).baseValue b2) d2 (((s.afterVR v1).afterBase b2).vrValue v2) 4 m3, 4)
  | .vgeg v1 d2 v2 b2 m3 =>
    some (vrvAddress ((s.afterVR v1).baseValue b2) d2 (((s.afterVR v1).afterBase b2).vrValue v2) 8 m3, 8)
  | .vll _ r3 d2 b2 => some (vrsAddress ((s.afterGR r3).baseValue b2) d2, boundedLength (s.grValue r3))
  | .loc _ d2 b2 m3 =>
    if condHolds m3 (s.afterBase b2).ccValue then some (rsyAddress (s.baseValue b2) d2, 4) else none
  | .locg _ d2 b2 m3 =>
    if condHolds m3 (s.afterBase b2).ccValue then some (rsyAddress (s.baseValue b2) d2, 8) else none
  | _ => none

/-- The storage operand of an instruction, whether or not its condition holds: the direction, address and count of the access
it names (R68, R325). -/
def storageOperand (i : Instr) (s : State) : Option (Direction × Addr × Nat) :=
  match i with
  | .loc _ d2 b2 _ => some (.read, rsyAddress (s.baseValue b2) d2, 4)
  | .locg _ d2 b2 _ => some (.read, rsyAddress (s.baseValue b2) d2, 8)
  | .stoc _ d2 b2 _ => some (.write, rsyAddress (s.baseValue b2) d2, 4)
  | .stocg _ d2 b2 _ => some (.write, rsyAddress (s.baseValue b2) d2, 8)
  | i =>
    match loadedFrom i s, storedTo i s with
    | some (a, n), _ => some (.read, a, n)
    | none, some (a, n) => some (.write, a, n)
    | none, none => none

/-- The vector registers an instruction reads in a state where every register it reads holds a value (R14, R296). -/
def vrSources (i : Instr) (s : State) : List VReg :=
  match i with
  | .va _ v2 v3 _ | .vs _ v2 v3 _ | .vn _ v2 v3 | .vnc _ v2 v3 | .vo _ v2 v3 | .vno _ v2 v3 | .vx _ v2 v3
  | .vavg _ v2 v3 _ | .vavgl _ v2 v3 _ | .vmx _ v2 v3 _ | .vmxl _ v2 v3 _ | .vmn _ v2 v3 _ | .vmnl _ v2 v3 _
  | .vml _ v2 v3 _ | .vmh _ v2 v3 _ | .vmlh _ v2 v3 _ | .vme _ v2 v3 _ | .vmle _ v2 v3 _ | .vmo _ v2 v3 _
  | .vmlo _ v2 v3 _ | .vpk _ v2 v3 _ | .vpks _ v2 v3 _ _ | .vpkls _ v2 v3 _ _ | .vmrh _ v2 v3 _ | .vmrl _ v2 v3 _
  | .vpdi _ v2 v3 _ | .vch _ v2 v3 _ _ | .vchl _ v2 v3 _ _ => [v2, v3]
  | .vlc _ v2 _ | .vlp _ v2 _ | .vpopct _ v2 _ | .vclz _ v2 _ | .vctz _ v2 _ | .vuph _ v2 _ | .vupl _ v2 _
  | .vuplh _ v2 _ | .vupll _ v2 _ => [v2]
  | .vperm _ v2 v3 v4 | .vsel _ v2 v3 v4 => [v2, v3, v4]
  | .vrep _ v3 _ _ => [v3]
  | .vrepi .. => []
  | .vgef v1 _ v2 _ _ | .vgeg v1 _ v2 _ _ | .vscef v1 _ v2 _ _ | .vsceg v1 _ v2 _ _ => [v1, v2]
  | .vll v1 r3 _ _ => if boundedLength (s.grAt r3) < 16 ∧ s.params.vllTail = .preserve then [v1] else []
  | .vstl v1 _ _ _ => [v1]
  | .lcbb .. | .locr .. | .locgr .. | .loc .. | .locg .. | .stoc .. | .stocg .. => []

/-- The register a base or index field names: none for 0 (R10). -/
def baseSource (b : GReg) : List GReg := if b = 0#4 then [] else [b]

/-- The general registers an instruction reads in a state where every register and the CC it reads hold a value (R36). -/
def grSources (i : Instr) (s : State) : List GReg :=
  match i with
  | .vgef _ _ _ b2 _ | .vgeg _ _ _ b2 _ | .vscef _ _ _ b2 _ | .vsceg _ _ _ b2 _ => baseSource b2
  | .vll _ r3 _ b2 | .vstl _ r3 _ b2 => r3 :: baseSource b2
  | .lcbb r1 _ x2 b2 _ => baseSource x2 ++ baseSource b2 ++ [r1]
  | .locr r1 r2 m3 => if condHolds m3 s.cc then [r1, r2] else []
  | .locgr _ r2 m3 => if condHolds m3 s.cc then [r2] else []
  | .loc r1 _ b2 m3 | .stoc r1 _ b2 m3 | .stocg r1 _ b2 m3 =>
    baseSource b2 ++ (if condHolds m3 s.cc then [r1] else [])
  | .locg _ _ b2 _ => baseSource b2
  | _ => []

/-- Whether an instruction reads the CC (R37): the load/store-on-condition family. -/
def readsCC : Instr → Bool
  | .locr .. | .locgr .. | .loc .. | .locg .. | .stoc .. | .stocg .. => true
  | _ => false

/-- Some register or the CC that the instruction reads holds no value (R44). -/
def ReadsUnwritten (i : Instr) (s : State) : Prop :=
  (∃ r, r ∈ vrSources i s ∧ s.vrHeld r = false) ∨ (∃ r, r ∈ grSources i s ∧ s.grHeld r = false) ∨
    (readsCC i = true ∧ s.ccSupplied = false)

/-! ### Illegal codes (R351) -/

/-- The first illegal element-size, element-index or block-size code of an instruction, as R351's table lists them: the field
and its value. -/
def illegalCode : Instr → Option (FieldName × Nat)
  | .va _ _ _ m4 | .vs _ _ _ m4 | .vavg _ _ _ m4 | .vavgl _ _ _ m4 | .vmx _ _ _ m4 | .vmxl _ _ _ m4 | .vmn _ _ _ m4
  | .vmnl _ _ _ m4 => if m4.toNat > 4 then some (.m4, m4.toNat) else none
  | .vml _ _ _ m4 | .vmh _ _ _ m4 | .vmlh _ _ _ m4 | .vme _ _ _ m4 | .vmle _ _ _ m4 | .vmo _ _ _ m4
  | .vmlo _ _ _ m4 => if m4.toNat > 2 then some (.m4, m4.toNat) else none
  | .vch _ _ _ m4 _ | .vchl _ _ _ m4 _ => if m4.toNat > 3 then some (.m4, m4.toNat) else none
  | .vlc _ _ m3 | .vlp _ _ m3 | .vclz _ _ m3 | .vctz _ _ m3 => if m3.toNat > 3 then some (.m3, m3.toNat) else none
  | .vpopct _ _ m3 => if m3.toNat ≠ 0 then some (.m3, m3.toNat) else none
  | .vpk _ _ _ m4 | .vpks _ _ _ m4 _ | .vpkls _ _ _ m4 _ =>
    if m4.toNat = 0 ∨ m4.toNat > 3 then some (.m4, m4.toNat) else none
  | .vuph _ _ m3 | .vupl _ _ m3 | .vuplh _ _ m3 | .vupll _ _ m3 => if m3.toNat > 2 then some (.m3, m3.toNat) else none
  | .vmrh _ _ _ m4 | .vmrl _ _ _ m4 => if m4.toNat > 3 then some (.m4, m4.toNat) else none
  | .vrep _ _ i2 m4 =>
    if m4.toNat > 3 then some (.m4, m4.toNat)
    else if i2.toNat ≥ elemCount (width m4) then some (.i2, i2.toNat) else none
  | .vrepi _ _ m3 => if m3.toNat > 3 then some (.m3, m3.toNat) else none
  | .vgef _ _ _ _ m3 | .vscef _ _ _ _ m3 => if m3.toNat > 3 then some (.m3, m3.toNat) else none
  | .vgeg _ _ _ _ m3 | .vsceg _ _ _ _ m3 => if m3.toNat > 1 then some (.m3, m3.toNat) else none
  | .lcbb _ _ _ _ m3 => if m3.toNat > 6 then some (.m3, m3.toNat) else none
  | .vn .. | .vnc .. | .vo .. | .vno .. | .vx .. | .vperm .. | .vsel .. | .vpdi .. | .vll .. | .vstl .. => none
  | .locr .. | .locgr .. | .loc .. | .locg .. | .stoc .. | .stocg .. => none

/-- Whether an instruction reaches memory (R61). -/
def accessesMemory : Instr → Bool
  | .vgef .. | .vgeg .. | .vscef .. | .vsceg .. | .vll .. | .vstl .. | .loc .. | .locg .. | .stoc .. | .stocg .. => true
  | _ => false

end Sys2Proof.Machine
end

