-- ==== Sys2Proof/Certificates/Slice0/Obligations.lean ====
section
/-! DEFINITION. The statements for the provers, each read off the numbered rules of spec/. A statement about an instruction holds for
every state whose registers it can read: where a register holds no value and UNWRITTEN_READ = DRAW, the value read is the free
value drawn (`vrValue`, `grValue`, `ccValue`). -/

open Sys2Proof Sys2Proof.Machine

/-! ### 41_lane_arith.md -/

/-- R141, R142: VA and VS add and subtract lane by lane modulo 2^(8w), for the five element sizes. -/
def Obligations.AddAndSubtractWrapPerLane : Prop :=
  ∀ (s : State) (v1 v2 v3 : VReg) (m4 : MField), m4.toNat ≤ 4 → s.vrReadable v2 = true → s.vrReadable v3 = true →
    WritesFromTwo (.va v1 v2 v3 m4) s v1 v2 v3 (fun a b r => ∀ i, i < elemCount (width m4) →
      elem r (width m4) i = elem a (width m4) i + elem b (width m4) i) ∧
    WritesFromTwo (.vs v1 v2 v3 m4) s v1 v2 v3 (fun a b r => ∀ i, i < elemCount (width m4) →
      elem r (width m4) i = elem a (width m4) i - elem b (width m4) i)

/-- R143 to R147: the five bitwise instructions, bit by bit over all 128 bits. -/
def Obligations.BitwiseLogicPerBit : Prop :=
  ∀ (s : State) (v1 v2 v3 : VReg), s.vrReadable v2 = true → s.vrReadable v3 = true →
    WritesFromTwo (.vn v1 v2 v3) s v1 v2 v3 (fun a b r => ∀ n, n < 128 →
      r.getLsbD n = (a.getLsbD n && b.getLsbD n)) ∧
    WritesFromTwo (.vnc v1 v2 v3) s v1 v2 v3 (fun a b r => ∀ n, n < 128 →
      r.getLsbD n = (a.getLsbD n && !b.getLsbD n)) ∧
    WritesFromTwo (.vo v1 v2 v3) s v1 v2 v3 (fun a b r => ∀ n, n < 128 →
      r.getLsbD n = (a.getLsbD n || b.getLsbD n)) ∧
    WritesFromTwo (.vno v1 v2 v3) s v1 v2 v3 (fun a b r => ∀ n, n < 128 →
      r.getLsbD n = !(a.getLsbD n || b.getLsbD n)) ∧
    WritesFromTwo (.vx v1 v2 v3) s v1 v2 v3 (fun a b r => ∀ n, n < 128 →
      r.getLsbD n = (a.getLsbD n != b.getLsbD n))

/-- R148, R149, R150: every lane of VAVG and VAVGL is the average of its operands, floored or rounded half up as AVG_ROUND says;
it fits its lane, so nothing wraps. -/
def Obligations.AverageNeverWraps : Prop :=
  ∀ (s : State) (v1 v2 v3 : VReg) (m4 : MField), m4.toNat ≤ 4 → s.vrReadable v2 = true → s.vrReadable v3 = true →
    WritesFromTwo (.vavg v1 v2 v3 m4) s v1 v2 v3 (fun a b r => ∀ i, i < elemCount (width m4) →
      (elem r (width m4) i).toInt =
        match s.params.avgRound with
        | .floor => ((elem a (width m4) i).toInt + (elem b (width m4) i).toInt) / 2
        | .halfUp => ((elem a (width m4) i).toInt + (elem b (width m4) i).toInt + 1) / 2) ∧
    WritesFromTwo (.vavgl v1 v2 v3 m4) s v1 v2 v3 (fun a b r => ∀ i, i < elemCount (width m4) →
      (elem r (width m4) i).toNat =
        match s.params.avgRound with
        | .floor => ((elem a (width m4) i).toNat + (elem b (width m4) i).toNat) / 2
        | .halfUp => ((elem a (width m4) i).toNat + (elem b (width m4) i).toNat + 1) / 2)

/-- R148: under FLOOR the lanes are the source's expression `(a>>1) + (b>>1) + (((a&1) + (b&1)) >> 1)`, with an arithmetic shift
for signed lanes. -/
def Obligations.FloorAverageIsTheSourceExpression : Prop :=
  ∀ (s : State) (v1 v2 v3 : VReg) (m4 : MField), s.params.avgRound = .floor → m4.toNat ≤ 4 →
    s.vrReadable v2 = true → s.vrReadable v3 = true →
    WritesFromTwo (.vavg v1 v2 v3 m4) s v1 v2 v3 (fun a b r => ∀ i, i < elemCount (width m4) →
      elem r (width m4) i = (elem a (width m4) i).sshiftRight 1 + (elem b (width m4) i).sshiftRight 1 +
        (((elem a (width m4) i &&& 1) + (elem b (width m4) i &&& 1)) >>> 1)) ∧
    WritesFromTwo (.vavgl v1 v2 v3 m4) s v1 v2 v3 (fun a b r => ∀ i, i < elemCount (width m4) →
      elem r (width m4) i = (elem a (width m4) i >>> 1) + (elem b (width m4) i >>> 1) +
        (((elem a (width m4) i &&& 1) + (elem b (width m4) i &&& 1)) >>> 1))

/-- R151 to R154: the maxima and minima choose a lane by the signed or the unsigned order. -/
def Obligations.MaximumAndMinimumPerLane : Prop :=
  ∀ (s : State) (v1 v2 v3 : VReg) (m4 : MField), m4.toNat ≤ 4 → s.vrReadable v2 = true → s.vrReadable v3 = true →
    WritesFromTwo (.vmx v1 v2 v3 m4) s v1 v2 v3 (fun a b r => ∀ i, i < elemCount (width m4) →
      elem r (width m4) i =
        if (elem a (width m4) i).slt (elem b (width m4) i) then elem b (width m4) i else elem a (width m4) i) ∧
    WritesFromTwo (.vmxl v1 v2 v3 m4) s v1 v2 v3 (fun a b r => ∀ i, i < elemCount (width m4) →
      elem r (width m4) i =
        if (elem a (width m4) i).ult (elem b (width m4) i) then elem b (width m4) i else elem a (width m4) i) ∧
    WritesFromTwo (.vmn v1 v2 v3 m4) s v1 v2 v3 (fun a b r => ∀ i, i < elemCount (width m4) →
      elem r (width m4) i =
        if (elem a (width m4) i).slt (elem b (width m4) i) then elem a (width m4) i else elem b (width m4) i) ∧
    WritesFromTwo (.vmnl v1 v2 v3 m4) s v1 v2 v3 (fun a b r => ∀ i, i < elemCount (width m4) →
      elem r (width m4) i =
        if (elem a (width m4) i).ult (elem b (width m4) i) then elem a (width m4) i else elem b (width m4) i)

/-- R155, R156, R157: VML keeps the low half of each lane's product, VMH and VMLH the high half of the exact product of the lanes
extended with or without sign to twice their width. -/
def Obligations.MultiplyLowAndHighHalves : Prop :=
  ∀ (s : State) (v1 v2 v3 : VReg) (m4 : MField), m4.toNat ≤ 2 → s.vrReadable v2 = true → s.vrReadable v3 = true →
    WritesFromTwo (.vml v1 v2 v3 m4) s v1 v2 v3 (fun a b r => ∀ i, i < elemCount (width m4) →
      elem r (width m4) i = elem a (width m4) i * elem b (width m4) i) ∧
    WritesFromTwo (.vmh v1 v2 v3 m4) s v1 v2 v3 (fun a b r => ∀ i, i < elemCount (width m4) →
      elem r (width m4) i = ((elem a (width m4) i).signExtend (8 * (2 * width m4)) *
        (elem b (width m4) i).signExtend (8 * (2 * width m4))).extractLsb' (8 * width m4) (8 * width m4)) ∧
    WritesFromTwo (.vmlh v1 v2 v3 m4) s v1 v2 v3 (fun a b r => ∀ i, i < elemCount (width m4) →
      elem r (width m4) i = ((elem a (width m4) i).setWidth (8 * (2 * width m4)) *
        (elem b (width m4) i).setWidth (8 * (2 * width m4))).extractLsb' (8 * width m4) (8 * width m4))

/-- R158 to R161: the even and odd multiplies give the exact product of the even or odd lanes at twice the width; nothing is lost
(the product read back as an integer is the product of the integers). -/
def Obligations.EvenOddMultiplyIsExact : Prop :=
  ∀ (s : State) (v1 v2 v3 : VReg) (m4 : MField), m4.toNat ≤ 2 → s.vrReadable v2 = true → s.vrReadable v3 = true →
    WritesFromTwo (.vme v1 v2 v3 m4) s v1 v2 v3 (fun a b r => ∀ k, k < elemCount (width m4) / 2 →
      (elem r (2 * width m4) k).toInt = (elem a (width m4) (2 * k)).toInt * (elem b (width m4) (2 * k)).toInt) ∧
    WritesFromTwo (.vmle v1 v2 v3 m4) s v1 v2 v3 (fun a b r => ∀ k, k < elemCount (width m4) / 2 →
      (elem r (2 * width m4) k).toNat = (elem a (width m4) (2 * k)).toNat * (elem b (width m4) (2 * k)).toNat) ∧
    WritesFromTwo (.vmo v1 v2 v3 m4) s v1 v2 v3 (fun a b r => ∀ k, k < elemCount (width m4) / 2 →
      (elem r (2 * width m4) k).toInt =
        (elem a (width m4) (2 * k + 1)).toInt * (elem b (width m4) (2 * k + 1)).toInt) ∧
    WritesFromTwo (.vmlo v1 v2 v3 m4) s v1 v2 v3 (fun a b r => ∀ k, k < elemCount (width m4) / 2 →
      (elem r (2 * width m4) k).toNat =
        (elem a (width m4) (2 * k + 1)).toNat * (elem b (width m4) (2 * k + 1)).toNat)

/-! ### 42_lane_unary.md -/

/-- R201, R202: VLC negates and VLP takes the absolute value of each lane; the most negative value maps to itself. -/
def Obligations.ComplementAndPositivePerLane : Prop :=
  ∀ (s : State) (v1 v2 : VReg) (m3 : MField), m3.toNat ≤ 3 → s.vrReadable v2 = true →
    WritesFromOne (.vlc v1 v2 m3) s v1 v2 (fun a r => ∀ i, i < elemCount (width m3) →
      elem r (width m3) i = -elem a (width m3) i) ∧
    WritesFromOne (.vlp v1 v2 m3) s v1 v2 (fun a r => ∀ i, i < elemCount (width m3) →
      elem r (width m3) i = if (elem a (width m3) i).msb then -elem a (width m3) i else elem a (width m3) i)

/-- R203: each byte of VPOPCT's result is the number of 1 bits of the source byte. -/
def Obligations.PopulationCountPerByte : Prop :=
  ∀ (s : State) (v1 v2 : VReg), s.vrReadable v2 = true →
    WritesFromOne (.vpopct v1 v2 0#4) s v1 v2 (fun a r => ∀ i, i < 16 →
      (elem r 1 i).toNat = (Finset.univ.filter fun k : Fin 8 => (elem a 1 i).getLsbD k).card)

/-- R204, R205: VCLZ and VCTZ count the zeros above the highest and below the lowest 1 bit of each lane, and give 8w for a zero
lane. -/
def Obligations.ZeroCountsPerLane : Prop :=
  ∀ (s : State) (v1 v2 : VReg) (m3 : MField), m3.toNat ≤ 3 → s.vrReadable v2 = true →
    WritesFromOne (.vclz v1 v2 m3) s v1 v2 (fun a r => ∀ i, i < elemCount (width m3) →
      (elem r (width m3) i).toNat ≤ 8 * width m3 ∧
      (∀ k, k < (elem r (width m3) i).toNat → (elem a (width m3) i).getMsbD k = false) ∧
      ((elem r (width m3) i).toNat < 8 * width m3 →
        (elem a (width m3) i).getMsbD (elem r (width m3) i).toNat = true)) ∧
    WritesFromOne (.vctz v1 v2 m3) s v1 v2 (fun a r => ∀ i, i < elemCount (width m3) →
      (elem r (width m3) i).toNat ≤ 8 * width m3 ∧
      (∀ k, k < (elem r (width m3) i).toNat → (elem a (width m3) i).getLsbD k = false) ∧
      ((elem r (width m3) i).toNat < 8 * width m3 →
        (elem a (width m3) i).getLsbD (elem r (width m3) i).toNat = true))

/-! ### 43_pack_unpack.md -/

/-- R228, R230: VPK keeps the low half of each source element. -/
def Obligations.PackTruncates : Prop :=
  ∀ (s : State) (v1 v2 v3 : VReg) (m4 : MField), 1 ≤ m4.toNat → m4.toNat ≤ 3 →
    s.vrReadable v2 = true → s.vrReadable v3 = true →
    WritesFromTwo (.vpk v1 v2 v3 m4) s v1 v2 v3 (fun a b r => ∀ j, j < 2 * elemCount (width m4) →
      elem r (width m4 / 2) j = (packSource a b (width m4) j).setWidth (8 * (width m4 / 2)))

/-- R15, R231, R233: VPKS clamps each signed source element to the signed narrow range, and with CS = 1 the CC says whether none, all
or some were clamped. -/
def Obligations.SignedPackSaturates : Prop :=
  ∀ (s : State) (v1 v2 v3 : VReg) (m4 m5 : MField), 1 ≤ m4.toNat → m4.toNat ≤ 3 →
    s.vrReadable v2 = true → s.vrReadable v3 = true →
    WritesFromTwo (.vpks v1 v2 v3 m4 m5) s v1 v2 v3
      (fun a b r => ∀ j, j < 2 * elemCount (width m4) →
        (elem r (width m4 / 2) j).toInt =
          max (-2 ^ (4 * width m4 - 1)) (min (packSource a b (width m4) j).toInt (2 ^ (4 * width m4 - 1) - 1)))
      (csBit m5)
      (fun a b cc => CCCounts cc (2 * elemCount (width m4)) fun j =>
        (packSource a b (width m4) j).toInt < -2 ^ (4 * width m4 - 1) ∨
          2 ^ (4 * width m4 - 1) ≤ (packSource a b (width m4) j).toInt)

/-- R15, R232, R233: VPKLS clamps each source element, read as PKLS_SRC says, to the unsigned narrow range, with the same CC rule. -/
def Obligations.LogicalPackSaturates : Prop :=
  ∀ (s : State) (v1 v2 v3 : VReg) (m4 m5 : MField), 1 ≤ m4.toNat → m4.toNat ≤ 3 →
    s.vrReadable v2 = true → s.vrReadable v3 = true →
    (s.params.pklsSrc = .signed →
      WritesFromTwo (.vpkls v1 v2 v3 m4 m5) s v1 v2 v3
        (fun a b r => ∀ j, j < 2 * elemCount (width m4) →
          ((elem r (width m4 / 2) j).toNat : Int) =
            max 0 (min (packSource a b (width m4) j).toInt (2 ^ (4 * width m4) - 1)))
        (csBit m5)
        (fun a b cc => CCCounts cc (2 * elemCount (width m4)) fun j =>
          (packSource a b (width m4) j).toInt < 0 ∨ 2 ^ (4 * width m4) ≤ (packSource a b (width m4) j).toInt)) ∧
    (s.params.pklsSrc = .unsigned →
      WritesFromTwo (.vpkls v1 v2 v3 m4 m5) s v1 v2 v3
        (fun a b r => ∀ j, j < 2 * elemCount (width m4) →
          (elem r (width m4 / 2) j).toNat = min (packSource a b (width m4) j).toNat (2 ^ (4 * width m4) - 1))
        (csBit m5)
        (fun a b cc => CCCounts cc (2 * elemCount (width m4)) fun j =>
          2 ^ (4 * width m4) ≤ (packSource a b (width m4) j).toNat))

/-- R229 (R234 to R237): the unpacks extend the elements of the high or the low half, with or without sign. -/
def Obligations.UnpackExtendsHalf : Prop :=
  ∀ (s : State) (v1 v2 : VReg) (m3 : MField), m3.toNat ≤ 2 → s.vrReadable v2 = true →
    WritesFromOne (.vuph v1 v2 m3) s v1 v2 (fun a r => ∀ k, k < elemCount (width m3) / 2 →
      elem r (2 * width m3) k = (elem a (width m3) k).signExtend (8 * (2 * width m3))) ∧
    WritesFromOne (.vupl v1 v2 m3) s v1 v2 (fun a r => ∀ k, k < elemCount (width m3) / 2 →
      elem r (2 * width m3) k =
        (elem a (width m3) (elemCount (width m3) / 2 + k)).signExtend (8 * (2 * width m3))) ∧
    WritesFromOne (.vuplh v1 v2 m3) s v1 v2 (fun a r => ∀ k, k < elemCount (width m3) / 2 →
      elem r (2 * width m3) k = (elem a (width m3) k).setWidth (8 * (2 * width m3))) ∧
    WritesFromOne (.vupll v1 v2 m3) s v1 v2 (fun a r => ∀ k, k < elemCount (width m3) / 2 →
      elem r (2 * width m3) k = (elem a (width m3) (elemCount (width m3) / 2 + k)).setWidth (8 * (2 * width m3)))

/-- R238, which the spec derives from R15, R229, R231 and R232: (a) saturation is idempotent; (b), (c) unpacking the two halves of a
register into H and L and packing them again gives the register back: VUPH and VUPL with VPKS, VUPLH and VUPLL with VPKLS under either
PKLS_SRC, and either pair with VPK. No element saturates: with CS = 1 the CC is 0. -/
def Obligations.SaturationAndRoundTripLaws : Prop :=
  (∀ (x : Int) (k : Sign) (n : Nat), n = 8 ∨ n = 16 ∨ n = 32 → sat (sat x k n) k n = sat x k n) ∧
  ∀ (s : State) (d h l v : VReg) (m3 m4 m5 : MField), m3.toNat ≤ 2 → m4.toNat = m3.toNat + 1 → h ≠ v → h ≠ l →
    s.vrHeld v = true →
    (∃ t u r q, exec (.vuph h v m3) s = .next t ∧ exec (.vupl l v m3) t = .next u ∧
      exec (.vpks d h l m4 m5) u = .next r ∧ r.vrAt d = s.vrAt v ∧ (csBit m5 = true → r.cc = 0#2) ∧
      exec (.vpk d h l m4) u = .next q ∧ q.vrAt d = s.vrAt v) ∧
    (∃ t u r q, exec (.vuplh h v m3) s = .next t ∧ exec (.vupll l v m3) t = .next u ∧
      exec (.vpkls d h l m4 m5) u = .next r ∧ r.vrAt d = s.vrAt v ∧ (csBit m5 = true → r.cc = 0#2) ∧
      exec (.vpk d h l m4) u = .next q ∧ q.vrAt d = s.vrAt v)

/-! ### 44_permute.md -/

/-- R260: byte `i` of VPERM's result is the byte of the 256-bit `V2 ++ V3` that the low 5 bits of selector byte `i` number, byte 0 the most
significant. -/
def Obligations.PermuteSelectsBytes : Prop :=
  ∀ (s : State) (v1 v2 v3 v4 : VReg), s.vrReadable v2 = true → s.vrReadable v3 = true → s.vrReadable v4 = true →
    ∃ t, exec (.vperm v1 v2 v3 v4) s = .next t ∧ t.vrHeld v1 = true ∧
      (∀ i, i < 16 → elem (t.vrAt v1) 1 i =
        (s.vrValue v2 ++ (s.afterVR v2).vrValue v3).extractLsb'
          (8 * (31 - (elem (((s.afterVR v2).afterVR v3).vrValue v4) 1 i).toNat % 32)) 8) ∧
      ChangesOnly s t (some v1) none false none

/-- R261: each bit of VSEL's result is V2's where the mask V4 is 1 and V3's where it is 0. -/
def Obligations.SelectTakesMaskedBits : Prop :=
  ∀ (s : State) (v1 v2 v3 v4 : VReg), s.vrReadable v2 = true → s.vrReadable v3 = true → s.vrReadable v4 = true →
    ∃ t, exec (.vsel v1 v2 v3 v4) s = .next t ∧ t.vrHeld v1 = true ∧
      (∀ n, n < 128 → (t.vrAt v1).getLsbD n =
        if (((s.afterVR v2).afterVR v3).vrValue v4).getLsbD n then (s.vrValue v2).getLsbD n
        else ((s.afterVR v2).vrValue v3).getLsbD n) ∧
      ChangesOnly s t (some v1) none false none

/-- R262, R263: the merges interleave the high or the low halves of V2 and V3. -/
def Obligations.MergeInterleavesHalves : Prop :=
  ∀ (s : State) (v1 v2 v3 : VReg) (m4 : MField), m4.toNat ≤ 3 → s.vrReadable v2 = true → s.vrReadable v3 = true →
    WritesFromTwo (.vmrh v1 v2 v3 m4) s v1 v2 v3 (fun a b r => ∀ k, k < elemCount (width m4) / 2 →
      elem r (width m4) (2 * k) = elem a (width m4) k ∧ elem r (width m4) (2 * k + 1) = elem b (width m4) k) ∧
    WritesFromTwo (.vmrl v1 v2 v3 m4) s v1 v2 v3 (fun a b r => ∀ k, k < elemCount (width m4) / 2 →
      elem r (width m4) (2 * k) = elem a (width m4) (k + elemCount (width m4) / 2) ∧
      elem r (width m4) (2 * k + 1) = elem b (width m4) (k + elemCount (width m4) / 2))

/-- R264: VREP copies element I2 of V3 to every element. -/
def Obligations.ReplicateCopiesElement : Prop :=
  ∀ (s : State) (v1 v3 : VReg) (i2 : BitVec 16) (m4 : MField), m4.toNat ≤ 3 → i2.toNat < elemCount (width m4) →
    s.vrReadable v3 = true →
    WritesFromOne (.vrep v1 v3 i2 m4) s v1 v3 (fun a r => ∀ i, i < elemCount (width m4) →
      elem r (width m4) i = elem a (width m4) i2.toNat)

/-- R111, R265: VREPI writes the immediate, sign-extended to the element width, to every element; for bytes it is the low 8 bits. -/
def Obligations.ReplicateImmediateExtends : Prop :=
  ∀ (s : State) (v1 : VReg) (i2 : BitVec 16) (m3 : MField), m3.toNat ≤ 3 →
    ∃ t, exec (.vrepi v1 i2 m3) s = .next t ∧ t.vrHeld v1 = true ∧
      (∀ i, i < elemCount (width m3) → elem (t.vrAt v1) (width m3) i = i2.signExtend (8 * width m3)) ∧
      ChangesOnly s t (some v1) none false none

/-- R266: VPDI puts the doubleword of V2 that M4's value-4 bit selects before the doubleword of V3 that its value-1 bit selects. -/
def Obligations.DoublewordPermute : Prop :=
  ∀ (s : State) (v1 v2 v3 : VReg) (m4 : MField), s.vrReadable v2 = true → s.vrReadable v3 = true →
    WritesFromTwo (.vpdi v1 v2 v3 m4) s v1 v2 v3 (fun a b r =>
      elem r 8 0 = elem a 8 (if m4.getLsbD 2 then 1 else 0) ∧ elem r 8 1 = elem b 8 (if m4.getLsbD 0 then 1 else 0))

/-- R266: VPDI with M4 = 0 is VMRHG, and with M4 = 5 it is VMRLG, in every state. -/
def Obligations.DoublewordPermuteIsMerge : Prop :=
  ∀ (s : State) (v1 v2 v3 : VReg),
    exec (.vpdi v1 v2 v3 0#4) s = exec (.vmrh v1 v2 v3 3#4) s ∧
    exec (.vpdi v1 v2 v3 5#4) s = exec (.vmrl v1 v2 v3 3#4) s

/-! ### 45_element_memory.md -/

/-- R290, R291, R292: a gather loads element M3 of V1, big-endian, from the base plus the displacement plus the unsigned offset element,
and keeps every other byte of V1. -/
def Obligations.GatherLoadsOneElement : Prop :=
  ∀ (s : State) (v1 : VReg) (d2 : BitVec 12) (v2 : VReg) (b2 : GReg) (m3 : MField),
    s.vrReadable v1 = true → s.baseReadable b2 = true → s.vrReadable v2 = true →
    let base := (s.afterVR v1).baseValue b2
    let offsets := ((s.afterVR v1).afterBase b2).vrValue v2
    (m3.toNat ≤ 3 → Admits s.mem .read (base + d2.setWidth 64 + (elem offsets 4 m3.toNat).setWidth 64) 4 →
      ∃ t, exec (.vgef v1 d2 v2 b2 m3) s = .next t ∧ t.vrHeld v1 = true ∧
        (∀ j, j < 4 → elem (t.vrAt v1) 1 (4 * m3.toNat + j) =
          s.mem.byteAt (byteAddr (base + d2.setWidth 64 + (elem offsets 4 m3.toNat).setWidth 64) j)) ∧
        (∀ k, k < 16 → k / 4 ≠ m3.toNat → elem (t.vrAt v1) 1 k = elem (s.vrValue v1) 1 k) ∧
        ChangesOnly s t (some v1) none false none) ∧
    (m3.toNat ≤ 1 → Admits s.mem .read (base + d2.setWidth 64 + elem offsets 8 m3.toNat) 8 →
      ∃ t, exec (.vgeg v1 d2 v2 b2 m3) s = .next t ∧ t.vrHeld v1 = true ∧
        (∀ j, j < 8 → elem (t.vrAt v1) 1 (8 * m3.toNat + j) =
          s.mem.byteAt (byteAddr (base + d2.setWidth 64 + elem offsets 8 m3.toNat) j)) ∧
        (∀ k, k < 16 → k / 8 ≠ m3.toNat → elem (t.vrAt v1) 1 k = elem (s.vrValue v1) 1 k) ∧
        ChangesOnly s t (some v1) none false none)

/-- R290, R293, R294: a scatter stores element M3 of V1, big-endian, to the base plus the displacement plus the unsigned offset element, and
changes nothing else. -/
def Obligations.ScatterStoresOneElement : Prop :=
  ∀ (s : State) (v1 : VReg) (d2 : BitVec 12) (v2 : VReg) (b2 : GReg) (m3 : MField), s.wf = true →
    s.vrReadable v1 = true → s.baseReadable b2 = true → s.vrReadable v2 = true →
    let base := (s.afterVR v1).baseValue b2
    let offsets := ((s.afterVR v1).afterBase b2).vrValue v2
    (m3.toNat ≤ 3 → Admits s.mem .write (base + d2.setWidth 64 + (elem offsets 4 m3.toNat).setWidth 64) 4 →
      ∃ t, exec (.vscef v1 d2 v2 b2 m3) s = .next t ∧
        (∀ j, j < 4 → t.mem.byteAt (byteAddr (base + d2.setWidth 64 + (elem offsets 4 m3.toNat).setWidth 64) j) =
          elem (s.vrValue v1) 1 (4 * m3.toNat + j)) ∧
        ChangesOnly s t none none false
          (some (base + d2.setWidth 64 + (elem offsets 4 m3.toNat).setWidth 64, 4))) ∧
    (m3.toNat ≤ 1 → Admits s.mem .write (base + d2.setWidth 64 + elem offsets 8 m3.toNat) 8 →
      ∃ t, exec (.vsceg v1 d2 v2 b2 m3) s = .next t ∧
        (∀ j, j < 8 → t.mem.byteAt (byteAddr (base + d2.setWidth 64 + elem offsets 8 m3.toNat) j) =
          elem (s.vrValue v1) 1 (8 * m3.toNat + j)) ∧
        ChangesOnly s t none none false (some (base + d2.setWidth 64 + elem offsets 8 m3.toNat, 8)))

/-- R295, R296: VLL loads bytes 0 to L-1 of V1 from the base plus the displacement; the bytes from L on keep V1's value under PRESERVE and are
zero under ZERO. -/
def Obligations.BoundedLoadFillsPrefix : Prop :=
  ∀ (s : State) (v1 : VReg) (r3 : GReg) (d2 : BitVec 12) (b2 : GReg),
    s.grReadable r3 = true → s.baseReadable b2 = true →
    let len := min ((s.grValue r3).toNat % 2 ^ 32 + 1) 16
    let ea := (s.afterGR r3).baseValue b2 + d2.setWidth 64
    (len < 16 → s.params.vllTail = .preserve → s.vrReadable v1 = true) →
    Admits s.mem .read ea len →
    ∃ t, exec (.vll v1 r3 d2 b2) s = .next t ∧ t.vrHeld v1 = true ∧
      (∀ j, j < len → elem (t.vrAt v1) 1 j = s.mem.byteAt (byteAddr ea j)) ∧
      (∀ j, len ≤ j → j < 16 → elem (t.vrAt v1) 1 j =
        match s.params.vllTail with
        | .preserve => elem (((s.afterGR r3).afterBase b2).vrValue v1) 1 j
        | .zero => 0#8) ∧
      ChangesOnly s t (some v1) none false none

/-- R295, R297: VSTL stores bytes 0 to L-1 of V1 at the base plus the displacement, and changes nothing else. -/
def Obligations.BoundedStoreWritesPrefix : Prop :=
  ∀ (s : State) (v1 : VReg) (r3 : GReg) (d2 : BitVec 12) (b2 : GReg), s.wf = true →
    s.grReadable r3 = true → s.baseReadable b2 = true → s.vrReadable v1 = true →
    let len := min ((s.grValue r3).toNat % 2 ^ 32 + 1) 16
    let ea := (s.afterGR r3).baseValue b2 + d2.setWidth 64
    Admits s.mem .write ea len →
    ∃ t, exec (.vstl v1 r3 d2 b2) s = .next t ∧
      (∀ j, j < len → t.mem.byteAt (byteAddr ea j) = elem (((s.afterGR r3).afterBase b2).vrValue v1) 1 j) ∧
      ChangesOnly s t none none false (some (ea, len))

/-- R298: LCBB puts the number of bytes up to the block boundary, at most 16, into bits 31:0 of R1, keeps bits 63:32, and sets the CC to 0 for 16
and 3 otherwise. -/
def Obligations.LoadCountToBlockBoundary : Prop :=
  ∀ (s : State) (r1 : GReg) (d2 : BitVec 12) (x2 b2 : GReg) (m3 : MField), m3.toNat ≤ 6 →
    s.baseReadable x2 = true → s.baseReadable b2 = true → s.grReadable r1 = true →
    let ea := s.baseValue x2 + (s.afterBase x2).baseValue b2 + d2.setWidth 64
    let n := min 16 (64 * 2 ^ m3.toNat - ea.toNat % (64 * 2 ^ m3.toNat))
    ∃ t, exec (.lcbb r1 d2 x2 b2 m3) s = .next t ∧ t.grHeld r1 = true ∧
      (t.grAt r1).toNat % 2 ^ 32 = n ∧
      (t.grAt r1).toNat / 2 ^ 32 = (((s.afterBase x2).afterBase b2).grValue r1).toNat / 2 ^ 32 ∧
      t.cc = (if n = 16 then 0#2 else 3#2) ∧ t.ccSupplied = true ∧
      ChangesOnly s t none (some r1) true none

/-- R299, which the spec derives from R295, R296 and R298: after LCBB has given n at an address, a VLL at the same address whose count is
n - 1 loads n bytes, all of the same block; it never touches the next block: a memory that differs only outside the block gives the same
outcome. -/
def Obligations.BlockBoundLoadStaysInBlock : Prop :=
  ∀ (s t u w : State) (m : Mem) (r1 : GReg) (d2 : BitVec 12) (x2 b2 : GReg) (m3 : MField) (v1 : VReg) (r3 : GReg)
    (d : BitVec 12) (b : GReg) (ea : Addr) (n : Nat),
    exec (.lcbb r1 d2 x2 b2 m3) s = .next t →
    ea = s.baseValue x2 + (s.afterBase x2).baseValue b2 + d2.setWidth 64 →
    n = (t.grAt r1).toNat % 2 ^ 32 →
    (u.grValue r3).toNat % 2 ^ 32 + 1 = n →
    (u.afterGR r3).baseValue b + d.setWidth 64 = ea →
    exec (.vll v1 r3 d b) u = .next w →
    (∀ a : Addr, a.toNat / (64 * 2 ^ m3.toNat) = ea.toNat / (64 * 2 ^ m3.toNat) →
      m.byteAt a = u.mem.byteAt a ∧ m.refusal .read a = u.mem.refusal .read a) →
    (∀ j, j < n → elem (w.vrAt v1) 1 j = u.mem.byteAt (byteAddr ea j) ∧
      (byteAddr ea j).toNat / (64 * 2 ^ m3.toNat) = ea.toNat / (64 * 2 ^ m3.toNat)) ∧
    exec (.vll v1 r3 d b) (u.withMem m) = .next (w.withMem m)

/-- R63, R65: a VSTL of 16 bytes followed by a LOCG whose condition holds at the same address loads element 0 of the doubleword view. -/
def Obligations.StoreBytesThenLoadDoubleword : Prop :=
  ∀ (s t : State) (v1 : VReg) (r3 : GReg) (d2 : BitVec 12) (b2 r1 : GReg) (d : BitVec 20) (b : GReg) (m3 : MField),
    s.wf = true → s.AllSupplied → 15 ≤ (s.grAt r3).toNat % 2 ^ 32 →
    exec (.vstl v1 r3 d2 b2) s = .next t →
    s.baseValue b + d.signExtend 64 = s.baseValue b2 + d2.setWidth 64 → condHolds m3 s.cc = true →
    Admits s.mem .read (s.baseValue b + d.signExtend 64) 8 →
    ∃ u, exec (.locg r1 d b m3) t = .next u ∧ u.grAt r1 = elem (s.vrAt v1) 8 0

/-! ### 46_predicate.md -/

/-- R320, R321: VCH and VCHL write all ones to the lanes where V2's element is greater, in the signed or unsigned order, and zero to the others,
equality among them; with CS = 1 the CC is 0, 3 or 1 when all, none or some compare high. -/
def Obligations.CompareHighMask : Prop :=
  ∀ (s : State) (v1 v2 v3 : VReg) (m4 m5 : MField), m4.toNat ≤ 3 → s.vrReadable v2 = true → s.vrReadable v3 = true →
    WritesFromTwo (.vch v1 v2 v3 m4 m5) s v1 v2 v3
      (fun a b r => ∀ i, i < elemCount (width m4) → elem r (width m4) i =
        if (elem b (width m4) i).slt (elem a (width m4) i) then BitVec.allOnes (8 * width m4) else 0)
      (csBit m5)
      (fun a b cc => CCCounts cc (elemCount (width m4)) fun i =>
        (elem b (width m4) i).slt (elem a (width m4) i) = false) ∧
    WritesFromTwo (.vchl v1 v2 v3 m4 m5) s v1 v2 v3
      (fun a b r => ∀ i, i < elemCount (width m4) → elem r (width m4) i =
        if (elem b (width m4) i).ult (elem a (width m4) i) then BitVec.allOnes (8 * width m4) else 0)
      (csBit m5)
      (fun a b cc => CCCounts cc (elemCount (width m4)) fun i =>
        (elem b (width m4) i).ult (elem a (width m4) i) = false)

/-- R113, R322: the condition holds exactly when the mask's bit of value 8, 4, 2 or 1 for CC 0, 1, 2 or 3 is one: mask 0 never, mask 15 always. -/
def Obligations.ConditionTestSelectsMaskBit : Prop :=
  ∀ (m3 : MField) (cc : CondCode), condHolds m3 cc = m3.getLsbD (3 - cc.toNat)

/-- R322, R323, R324: LOCR replaces bits 31:0 and LOCGR all of R1 by R2 when the condition holds; when it does not, nothing changes and neither
general register is read. -/
def Obligations.LoadRegisterOnCondition : Prop :=
  ∀ (s : State) (r1 r2 : GReg) (m3 : MField), s.ccReadable = true →
    (m3.getLsbD (3 - s.ccValue.toNat) = true → s.grReadable r2 = true →
      (s.grReadable r1 = true →
        ∃ t, exec (.locr r1 r2 m3) s = .next t ∧ t.grHeld r1 = true ∧
          (t.grAt r1).toNat % 2 ^ 32 = ((s.afterCC.afterGR r1).grValue r2).toNat % 2 ^ 32 ∧
          (t.grAt r1).toNat / 2 ^ 32 = (s.afterCC.grValue r1).toNat / 2 ^ 32 ∧
          ChangesOnly s t none (some r1) false none) ∧
      ∃ t, exec (.locgr r1 r2 m3) s = .next t ∧ t.grHeld r1 = true ∧ t.grAt r1 = s.afterCC.grValue r2 ∧
        ChangesOnly s t none (some r1) false none) ∧
    (m3.getLsbD (3 - s.ccValue.toNat) = false →
      (∃ t, exec (.locr r1 r2 m3) s = .next t ∧ ChangesOnly s t none none false none) ∧
      ∃ t, exec (.locgr r1 r2 m3) s = .next t ∧ ChangesOnly s t none none false none)

/-- R325, R326, R327: when the condition holds, LOCG loads R1, and LOC bits 31:0 of R1, big-endian from the base plus the signed
displacement. -/
def Obligations.LoadOnConditionTrue : Prop :=
  ∀ (s : State) (r1 : GReg) (d2 : BitVec 20) (b2 : GReg) (m3 : MField), s.baseReadable b2 = true → s.ccReadable = true →
    m3.getLsbD (3 - (s.afterBase b2).ccValue.toNat) = true →
    let ea := s.baseValue b2 + d2.signExtend 64
    (Admits s.mem .read ea 8 →
      ∃ t, exec (.locg r1 d2 b2 m3) s = .next t ∧ t.grHeld r1 = true ∧
        (∀ j, j < 8 → (t.grAt r1).extractLsb' (8 * (7 - j)) 8 = s.mem.byteAt (byteAddr ea j)) ∧
        ChangesOnly s t none (some r1) false none) ∧
    (s.grReadable r1 = true → Admits s.mem .read ea 4 →
      ∃ t, exec (.loc r1 d2 b2 m3) s = .next t ∧ t.grHeld r1 = true ∧
        (∀ j, j < 4 → (t.grAt r1).extractLsb' (8 * (3 - j)) 8 = s.mem.byteAt (byteAddr ea j)) ∧
        (t.grAt r1).toNat / 2 ^ 32 = ((s.afterBase b2).afterCC.grValue r1).toNat / 2 ^ 32 ∧
        ChangesOnly s t none (some r1) false none)

/-- R325, R328, R329: when the condition holds, STOCG stores R1, and STOC bits 31:0 of R1, big-endian at the base plus the signed displacement, and
nothing else changes. -/
def Obligations.StoreOnConditionTrue : Prop :=
  ∀ (s : State) (r1 : GReg) (d2 : BitVec 20) (b2 : GReg) (m3 : MField), s.wf = true → s.baseReadable b2 = true →
    s.ccReadable = true → s.grReadable r1 = true → m3.getLsbD (3 - (s.afterBase b2).ccValue.toNat) = true →
    let ea := s.baseValue b2 + d2.signExtend 64
    (Admits s.mem .write ea 8 →
      ∃ t, exec (.stocg r1 d2 b2 m3) s = .next t ∧
        (∀ j, j < 8 → t.mem.byteAt (byteAddr ea j) =
          ((s.afterBase b2).afterCC.grValue r1).extractLsb' (8 * (7 - j)) 8) ∧
        ChangesOnly s t none none false (some (ea, 8))) ∧
    (Admits s.mem .write ea 4 →
      ∃ t, exec (.stoc r1 d2 b2 m3) s = .next t ∧
        (∀ j, j < 4 → t.mem.byteAt (byteAddr ea j) =
          ((s.afterBase b2).afterCC.grValue r1).extractLsb' (8 * (3 - j)) 8) ∧
        ChangesOnly s t none none false (some (ea, 4)))

/-- R325: a load/store-on-condition whose condition is false changes nothing. It completes when LOC_FALSE_ACCESS = NEVER or `Mem` admits every
byte of the operand; under MAY, for an operand with a refused byte, it completes or raises ACCESS for the first refused byte. For a false STOC
or STOCG, that the refusals of writes count and that the fault says write is the model's reading, not a sentence of R325 (log entry 9, DEDUCED). -/
def Obligations.FalseConditionChangesNothing : Prop :=
  ∀ (s : State) (r1 : GReg) (d2 : BitVec 20) (b2 : GReg) (m3 : MField) (i : Instr) (dir : Direction) (n : Nat),
    (i, dir, n) ∈ [(Instr.loc r1 d2 b2 m3, Direction.read, 4), (Instr.locg r1 d2 b2 m3, Direction.read, 8),
      (Instr.stoc r1 d2 b2 m3, Direction.write, 4), (Instr.stocg r1 d2 b2 m3, Direction.write, 8)] →
    s.baseReadable b2 = true → s.ccReadable = true → m3.getLsbD (3 - (s.afterBase b2).ccValue.toNat) = false →
    let ea := s.baseValue b2 + d2.signExtend 64
    (s.params.locFalseAccess = .never ∨ Admits s.mem dir ea n →
      ∃ t, exec i s = .next t ∧ ChangesOnly s t none none false none) ∧
    (s.params.locFalseAccess = .may → ∀ p code, FirstRefused s.mem dir ea n p code →
      ∃ t, ChangesOnly s t none none false none ∧
        (exec i s = .next t ∨ exec i s = .fault (.access (byteAddr ea p) dir code 6 t)))

/-! ### Whole-machine rules over every instruction -/

/-- R36, R37, R61, R68: whatever instruction completes, it changes only its own destination register, the CC where it is one of the CC's writers,
and the bytes it stores to. -/
def Obligations.InstructionFrame : Prop :=
  ∀ (i : Instr) (s t : State), s.wf = true → exec i s = .next t →
    ChangesOnly s t (vrDest i) (grDest i) (setsCC i) (storedTo i s)

/-- R37, R233, R298, R320: an instruction that writes the CC leaves 0, 1 or 3, never 2, and the CC then holds a value. -/
def Obligations.WrittenConditionCodeIsNeverTwo : Prop :=
  ∀ (i : Instr) (s t : State), setsCC i = true → exec i s = .next t → t.cc ≠ 2#2 ∧ t.ccSupplied = true

/-- R37: only the load/store-on-condition family reads the CC: replacing the CC and whether it holds a value changes nothing in what any
other instruction does, but for the CC it leaves alone. -/
def Obligations.OnlyLocFamilyReadsConditionCode : Prop :=
  ∀ (i : Instr) (s t : State) (cc : CondCode) (held : Bool), readsCC i = false → exec i s = .next t →
    exec i (s.replaceCC cc held) = .next (if setsCC i then t else t.replaceCC cc held)

/-- R61, R68, R70: an instruction that stores nothing depends on memory only through its own operand's bytes and admissions: two memories that
agree there give the same outcome, and memory stays as it was. For a false STOC or STOCG, that the admissions are those of writes is the model's
reading (log entry 9, DEDUCED). -/
def Obligations.OutcomeDependsOnOperandBytesOnly : Prop :=
  ∀ (i : Instr) (s t : State) (m : Mem), storedTo i s = none →
    (∀ dir a n, storageOperand i s = some (dir, a, n) → ∀ j, j < n →
      m.byteAt (byteAddr a j) = s.mem.byteAt (byteAddr a j) ∧
      m.refusal dir (byteAddr a j) = s.mem.refusal dir (byteAddr a j)) →
    exec i s = .next t → exec i (s.withMem m) = .next (t.withMem m)

/-! ### Faults and refusals -/

/-- R351: an instruction that can read its sources raises SPECIFICATION exactly when it carries an illegal code of R351's table, whatever memory
refuses, and then changes nothing. -/
def Obligations.SpecificationExactly : Prop :=
  ∀ (i : Instr) (s : State), s.drawsUnwritten = true ∨ ¬ ReadsUnwritten i s →
    (∀ f v, illegalCode i = some (f, v) →
      ∃ u, exec i s = .fault (.specification i.mnemonic f v i.length u) ∧ ChangesOnly s u none none false none) ∧
    (illegalCode i = none → ∀ m f v n u, exec i s ≠ .fault (.specification m f v n u))

/-- R352, R354, R355: an instruction that can read its sources and has no illegal code raises ACCESS for the first refused byte, in access order,
of what it loads or stores; and every ACCESS is for the first refused byte of the instruction's own storage operand, in its direction, with what
`Mem` attached, and where the instruction accesses nothing (its condition is false) only under LOC_FALSE_ACCESS = MAY. For a false STOC or STOCG the
direction write is the model's reading, which no sentence of these rules gives (log entry 9, DEDUCED). -/
def Obligations.AccessExactly : Prop :=
  ∀ (i : Instr) (s : State),
    (s.drawsUnwritten = true ∨ ¬ ReadsUnwritten i s → illegalCode i = none →
      (∀ a n p code, loadedFrom i s = some (a, n) → FirstRefused s.mem .read a n p code →
        ∃ u, exec i s = .fault (.access (byteAddr a p) .read code i.length u)) ∧
      (∀ a n p code, storedTo i s = some (a, n) → FirstRefused s.mem .write a n p code →
        ∃ u, exec i s = .fault (.access (byteAddr a p) .write code i.length u))) ∧
    (∀ a dir code len u, exec i s = .fault (.access a dir code len u) →
      accessesMemory i = true ∧ len = i.length ∧
      (loadedFrom i s = none → storedTo i s = none → s.params.locFalseAccess = .may) ∧
      ∃ b n p, storageOperand i s = some (dir, b, n) ∧ FirstRefused s.mem dir b n p code ∧ a = byteAddr b p)

/-- R356: SPECIFICATION, and ACCESS on a read, leave every register, the CC and memory as they were; ACCESS on a write leaves every register and
the CC, and changes no byte but those the instruction stores to, each of which holds what it stores there or what it held. -/
def Obligations.FaultsSuppress : Prop :=
  ∀ (i : Instr) (s : State), s.wf = true →
    (∀ m f v n u, exec i s = .fault (.specification m f v n u) → ChangesOnly s u none none false none) ∧
    (∀ a code n u, exec i s = .fault (.access a .read code n u) → ChangesOnly s u none none false none) ∧
    (∀ a code n u, exec i s = .fault (.access a .write code n u) → ChangesOnly s u none none false (storedTo i s) ∧
      ∀ b len, storedTo i s = some (b, len) → ∀ j, j < len →
        u.mem.byteAt (byteAddr b j) = storedByte i s j ∨ u.mem.byteAt (byteAddr b j) = s.mem.byteAt (byteAddr b j))

/-- R357: when a store's byte at position p is the first refused, the bytes from p on are not written, and each byte before p holds what the store
writes there or what it held. -/
def Obligations.PartialStoreBeforeRefusedByte : Prop :=
  ∀ (i : Instr) (s u : State) (a b : Addr) (code : Option Nat) (len n : Nat), s.wf = true →
    exec i s = .fault (.access a .write code len u) → storedTo i s = some (b, n) →
    ∃ p, FirstRefused s.mem .write b n p code ∧ a = byteAddr b p ∧
      ChangesOnly s u none none false (some (b, p)) ∧
      ∀ j, j < p → u.mem.byteAt (byteAddr b j) = storedByte i s j ∨
        u.mem.byteAt (byteAddr b j) = s.mem.byteAt (byteAddr b j)

/-- R44, R355: under UNWRITTEN_READ = FAULT an instruction is refused exactly when it reads a register or a CC that holds no value, before any
fault; under DRAW none is refused. No instruction is refused for another reason. The order and the set of
reads are the model's reading of the rules (log entries 12 and 13). -/
def Obligations.UnwrittenReadRefuses : Prop :=
  ∀ (i : Instr) (s : State),
    (s.drawsUnwritten = false → (exec i s = .refused .unwrittenRead ↔ ReadsUnwritten i s)) ∧
    (s.drawsUnwritten = true → ∀ e, exec i s ≠ .refused e) ∧
    (∀ e, exec i s = .refused e → e = .unwrittenRead)

/-! ### The step -/

/-- R38, R42: when the handed bytes begin with the instruction i, the step is i's meaning; on Done the caller's address advances by i's length
modulo 2^64; on a fault and on a refusal the step answers them unchanged. R38 and R42 name no stream of bytes: that the step takes the front of the
handed bytes and leaves those after it as the next is the model's choice (log entry 6, DESIGN CHOICE), and so is that the step holds and advances the
caller's address itself (log entry 7, DESIGN CHOICE). -/
def Obligations.StepRunsDecodedInstruction : Prop :=
  ∀ (s : State) (i : Instr) (rest : List Byte), decode s.stream = .instr i rest →
    (∀ u, exec i s = .next u → step s = .next { u with stream := rest, ia := u.ia + BitVec.ofNat 64 i.length }) ∧
    (∀ f, exec i s = .fault f → step s = .fault f) ∧
    (∀ e, exec i s = .refused e → step s = .refused e)

/-- R93, R350, R355: a word with no row's opcode, and one with a row's opcode and a reserved bit that is one, is refused by its own name, whatever
the state; no step refuses an instruction as not modelled. Which of the two names a word gets is the model's reading of R93 (log entry 16, DEDUCED),
and that the word is the front of the handed bytes is its choice (log entry 6). -/
def Obligations.StepRefusesUndecodedWords : Prop :=
  ∀ (s : State),
    (decode s.stream = .unknownEncoding → step s = .refused .unknownEncoding) ∧
    (decode s.stream = .reservedFieldNonzero → step s = .refused .reservedFieldNonzero) ∧
    ∀ m, step s ≠ .refused (.notModelled m)

/-- R38, R91: every step that completes advances the caller's address by 4 or 6, as the first byte's top bits say. That the word stands at the front
of the handed bytes and that the step drops as many of them is the model's choice (log entry 6, DESIGN CHOICE), and so is that the step holds and
advances the address itself (log entry 7, DESIGN CHOICE). -/
def Obligations.StepAdvancesByLength : Prop :=
  ∀ (s t : State), step s = .next t →
    ∃ b bs n, s.stream = b :: bs ∧ n = lengthCode b ∧ (n = 4 ∨ n = 6) ∧ n ≤ s.stream.length ∧
      t.stream = s.stream.drop n ∧ t.ia = s.ia + BitVec.ofNat 64 n

/-- The model's own invariant (log entry 3): every step keeps memory in canonical form, a step that faults too. -/
def Obligations.StepKeepsMemoryCanonical : Prop :=
  ∀ (s : State), s.wf = true →
    (∀ t, step s = .next t → t.wf = true) ∧ (∀ f, step s = .fault f → (faultState f).wf = true)

/-- The model's choice (log entry 3): memory is in canonical form at reset. -/
def Obligations.ResetMemoryCanonical : Prop := State.reset.wf = true

/-- R7, R390, R60, R44: no step changes a parameter or what `Mem` refuses, and a register or CC that holds a value goes on holding one. -/
def Obligations.StepKeepsParametersAndHeldRegisters : Prop :=
  ∀ (s t : State), step s = .next t →
    t.params = s.params ∧ t.mem.refusals = s.mem.refusals ∧
    (∀ r, s.vrHeld r = true → t.vrHeld r = true) ∧ (∀ r, s.grHeld r = true → t.grHeld r = true) ∧
    (s.ccSupplied = true → t.ccSupplied = true)

/-- R37, R233, R298, R320: a CC that is not 2 never becomes 2, and every register and the CC, once all supplied, stay supplied, so that no step from
there is refused as an unwritten read. -/
def Obligations.SuppliedStatesStaySound : Prop :=
  ∀ (s : State), s.AllSupplied → s.cc ≠ 2#2 →
    (∀ t, step s = .next t → t.AllSupplied ∧ t.cc ≠ 2#2) ∧ step s ≠ .refused .unwrittenRead

/-- The reset state of the model (log entries 1, 5 and 6): every register and the CC supplied as zero, the parameters at the defaults of R7, and
nothing handed. -/
def Obligations.ResetSuppliesZeros : Prop :=
  State.reset.AllSupplied ∧ (∀ r, State.reset.vrAt r = 0#128) ∧ (∀ r, State.reset.grAt r = 0#64) ∧
    State.reset.cc = 0#2 ∧ State.reset.params = ⟨.preserve, .signed, .floor, .fault, .may⟩ ∧ State.reset.stream = []

/-! ### 30_encoding.md -/

/-- R90 to R116: decoding the encoding of a well-formed instruction gives it back, whatever follows it. -/
def Obligations.DecodeOfEncode : Prop :=
  ∀ (i : Instr) (rest : List Byte), i.wf = true → decode (encode i ++ rest) = .instr i rest

/-- R90 to R116: bytes that decode to an instruction are its encoding and what follows, and the instruction is well formed: a word has one
meaning, and no bit of it is dropped. -/
def Obligations.EncodeOfDecode : Prop :=
  ∀ (bs rest : List Byte) (i : Instr), decode bs = .instr i rest → i.wf = true ∧ bs = encode i ++ rest

/-- R91, R92, R93, R115: a word of the length its top bits tell decodes exactly when exactly one row's mask and match fit it; it is refused for a
reserved field when none fits but a row's opcode does, and as unknown when no row's opcode does. Which of the two refusals a word gets is the model's
reading of R93 (log entry 16, DEDUCED). -/
def Obligations.DecodeFollowsOpcodeTable : Prop :=
  ∀ (n : Nat) (w : BitVec 48) (rest : List Byte), n = 2 ∨ n = 4 ∨ n = 6 → w.toNat < 2 ^ (8 * n) →
    lengthCode (w.extractLsb' (8 * (n - 1)) 8) = n →
    ((∃ i, decode (bytesOfWord n w ++ rest) = .instr i rest) ↔
      ∃! m, (opcodeRow m).len = n ∧ w &&& (opcodeRow m).mask = (opcodeRow m).pattern) ∧
    (decode (bytesOfWord n w ++ rest) = .reservedFieldNonzero ↔
      (∃ m, (opcodeRow m).len = n ∧ w &&& opcodeMask n = (opcodeRow m).pattern &&& opcodeMask n) ∧
      ∀ m, (opcodeRow m).len = n → w &&& (opcodeRow m).mask ≠ (opcodeRow m).pattern) ∧
    (decode (bytesOfWord n w ++ rest) = .unknownEncoding ↔
      ∀ m, (opcodeRow m).len = n → w &&& opcodeMask n ≠ (opcodeRow m).pattern &&& opcodeMask n)

/-- R93: no word fits the mask and match of two rows. -/
def Obligations.OpcodeRowsDisjoint : Prop :=
  ∀ (m n : Mnemonic) (w : BitVec 48), m ≠ n → (opcodeRow m).len = (opcodeRow n).len →
    w &&& (opcodeRow m).mask = (opcodeRow m).pattern → w &&& (opcodeRow n).mask ≠ (opcodeRow n).pattern

/-- R96 to R111: words of the test vectors, one of each format, decode to the instruction they stand for. -/
def Obligations.SampleWordsDecode : Prop :=
  decode [0xE7, 0x11, 0x20, 0x00, 0x08, 0xF3] = .instr (.va 17 1 2 0) [] ∧
  decode [0xE7, 0x43, 0x00, 0x00, 0x00, 0xD7] = .instr (.vuph 4 3 0) [] ∧
  decode [0xE7, 0x31, 0x20, 0x10, 0x10, 0x97] = .instr (.vpks 3 1 2 1 1) [] ∧
  decode [0xE7, 0xF0, 0x10, 0x00, 0x4D, 0x8C] = .instr (.vperm 31 16 1 20) [] ∧
  decode [0xE7, 0x10, 0x01, 0x2C, 0x10, 0x45] = .instr (.vrepi 1 0x012C 1) [] ∧
  decode [0xE7, 0x13, 0x00, 0x10, 0x00, 0x4D] = .instr (.vrep 1 3 16 0) [] ∧
  decode [0xE7, 0x12, 0x30, 0x00, 0x08, 0x3F] = .instr (.vstl 17 2 0 3) [] ∧
  decode [0xE7, 0x32, 0x10, 0x00, 0x30, 0x1B] = .instr (.vscef 3 0 2 1 3) [] ∧
  decode [0xE7, 0x40, 0x10, 0x00, 0x60, 0x27] = .instr (.lcbb 4 0 0 1 6) [] ∧
  decode [0xB9, 0xE2, 0x80, 0x76] = .instr (.locgr 7 6 8) [] ∧
  decode [0xEB, 0x61, 0x1F, 0xF8, 0xFF, 0xE3] = .instr (.stocg 6 (BitVec.ofInt 20 (-8)) 1 1) []

/-- R16: the source indices of each element range, for every element count. -/
def Obligations.ElementRangeIndices : Prop :=
  ∀ n, n ∈ [1, 2, 4, 8, 16] →
    rangeIndices .full n = List.range n ∧
    (1 < n → rangeIndices .low n = (List.range (n / 2)).map (n / 2 + ·) ∧
      rangeIndices .high n = List.range (n / 2) ∧
      rangeIndices .even n = (List.range (n / 2)).map (2 * ·) ∧
      rangeIndices .odd n = (List.range (n / 2)).map (2 * · + 1))
end

