-- ==== Sys2Proof/Laws/Lanes.lean ====
section
/-! SUPPORT. Elements and the lane loop: reading an element after writing one, what each element of a filled register is, and the
source indices of each range (00_scope.md R11, R16, R17). -/

namespace Sys2Proof.Machine

theorem getLsbD_elem (v : V128) (w i n : Nat) :
    (elem v w i).getLsbD n = (decide (n < 8 * w) && v.getLsbD (128 - 8 * w * (i + 1) + n)) := by
  simp [elem]

theorem getLsbD_setElem (v : V128) (w i n : Nat) (x : BitVec (8 * w)) (hn : n < 128) :
    (setElem v w i x).getLsbD n =
      if 128 - 8 * w * (i + 1) ≤ n ∧ n < 128 - 8 * w * (i + 1) + 8 * w
      then x.getLsbD (n - (128 - 8 * w * (i + 1))) else v.getLsbD n := by
  simp only [setElem]
  generalize 128 - 8 * w * (i + 1) = lo
  simp only [BitVec.getLsbD_or, BitVec.getLsbD_and, BitVec.getLsbD_not, BitVec.getLsbD_shiftLeft, BitVec.getLsbD_setWidth, BitVec.getLsbD_allOnes, hn]
  by_cases h1 : lo ≤ n <;> by_cases h2 : n < lo + 8 * w
  · simp [show ¬ n < lo by omega, show n - lo < 8 * w by omega, show n - lo < 128 by omega, h1, h2]
  · simp [show ¬ n < lo by omega, show ¬ n - lo < 8 * w by omega, h2,
      BitVec.getLsbD_of_ge x (n - lo) (by omega)]
  · simp [show n < lo by omega, h1]
  · omega

theorem elem_setElem_same (v : V128) (w i : Nat) (x : BitVec (8 * w)) (h : 8 * w * (i + 1) ≤ 128) :
    elem (setElem v w i x) w i = x := by
  apply BitVec.eq_of_getLsbD_eq
  intro n hn
  have : 8 * w ≤ 8 * w * (i + 1) := Nat.le_mul_of_pos_right _ (Nat.succ_pos i)
  rw [getLsbD_elem, getLsbD_setElem _ _ _ _ _ (by omega)]
  simp [hn]

theorem elem_setElem_of_ne (v : V128) (w i j : Nat) (x : BitVec (8 * w)) (hi : 8 * w * (i + 1) ≤ 128)
    (hj : 8 * w * (j + 1) ≤ 128) (hij : i ≠ j) : elem (setElem v w i x) w j = elem v w j := by
  apply BitVec.eq_of_getLsbD_eq
  intro n hn
  have h1 : 8 * w ≤ 8 * w * (i + 1) := Nat.le_mul_of_pos_right _ (Nat.succ_pos i)
  have h2 : 8 * w ≤ 8 * w * (j + 1) := Nat.le_mul_of_pos_right _ (Nat.succ_pos j)
  have h3 : 8 * w * (i + 1) + 8 * w ≤ 8 * w * (j + 1) ∨ 8 * w * (j + 1) + 8 * w ≤ 8 * w * (i + 1) := by
    rcases Nat.lt_or_gt_of_ne hij with h | h
    · left; rw [← Nat.mul_succ]; exact Nat.mul_le_mul_left _ (by omega)
    · right; rw [← Nat.mul_succ]; exact Nat.mul_le_mul_left _ (by omega)
  rw [getLsbD_elem, getLsbD_elem, getLsbD_setElem _ _ _ _ _ (by omega)]
  simp only [hn, decide_true, Bool.true_and]
  rw [if_neg (by omega)]

theorem elem_fillElems_of_lt (w : Nat) (xs : List (BitVec (8 * w))) : ∀ (k : Nat) (r : V128) (j : Nat), j < k →
    8 * w * (k + xs.length) ≤ 128 → elem (fillElems w k r xs) w j = elem r w j := by
  induction xs with
  | nil => intros; rfl
  | cons x xs ih =>
    intro k r j hj hk
    have h1 : 8 * w * (k + 1) ≤ 8 * w * (k + (x :: xs).length) := Nat.mul_le_mul_left _ (by simp)
    have h2 : 8 * w * (j + 1) ≤ 8 * w * (k + 1) := Nat.mul_le_mul_left _ (by omega)
    rw [fillElems, ih (k + 1) _ j (by omega) (by simpa [Nat.add_assoc, Nat.add_comm 1] using hk),
      elem_setElem_of_ne _ _ _ _ _ (by omega) (by omega) (by omega)]

theorem elem_fillElems (w : Nat) (xs : List (BitVec (8 * w))) : ∀ (k : Nat) (r : V128) (j : Nat) (hj : j < xs.length),
    8 * w * (k + xs.length) ≤ 128 → elem (fillElems w k r xs) w (k + j) = xs[j] := by
  induction xs with
  | nil => intro _ _ j hj; simp at hj
  | cons x xs ih =>
    intro k r j hj hk
    have h1 : 8 * w * (k + 1) ≤ 8 * w * (k + (x :: xs).length) := Nat.mul_le_mul_left _ (by simp)
    have hk' : 8 * w * (k + 1 + xs.length) ≤ 128 := by simpa [Nat.add_assoc, Nat.add_comm 1] using hk
    cases j with
    | zero => rw [fillElems, Nat.add_zero k, elem_fillElems_of_lt _ _ _ _ _ (by omega) hk']; exact elem_setElem_same _ _ _ _ (by omega)
    | succ j =>
      have := ih (k + 1) (setElem r w k x) j (by simpa using hj) hk'
      rw [fillElems, show k + (j + 1) = k + 1 + j by omega, this]; rfl

theorem elem_fillElems_of_ge (w : Nat) (xs : List (BitVec (8 * w))) : ∀ (k : Nat) (r : V128) (j : Nat), k + xs.length ≤ j →
    8 * w * (j + 1) ≤ 128 → elem (fillElems w k r xs) w j = elem r w j := by
  induction xs with
  | nil => intros; rfl
  | cons x xs ih =>
    intro k r j hj hb
    have hj' : k + xs.length + 1 ≤ j := by simpa [Nat.add_assoc] using hj
    have h2 : 8 * w * (k + 1) ≤ 8 * w * (j + 1) := Nat.mul_le_mul_left _ (by omega)
    rw [fillElems, ih (k + 1) _ j (by omega) hb, elem_setElem_of_ne _ _ _ _ _ (by omega) hb (by omega)]

/-- The element widths of R100. -/
def IsWidth (w : Nat) : Prop := w = 1 ∨ w = 2 ∨ w = 4 ∨ w = 8 ∨ w = 16

theorem IsWidth.elemCount_mul {w : Nat} (h : IsWidth w) : 8 * w * elemCount w = 128 := by
  rcases h with rfl | rfl | rfl | rfl | rfl <;> rfl

theorem eq_of_elem_eq {w : Nat} (hw : IsWidth w) (a b : V128) (h : ∀ i, i < elemCount w → elem a w i = elem b w i) :
    a = b := by
  apply BitVec.eq_of_getLsbD_eq
  intro n hn
  have key : ∃ i, i < elemCount w ∧ ∃ m, m < 8 * w ∧ n = 128 - 8 * w * (i + 1) + m := by
    rcases hw with rfl | rfl | rfl | rfl | rfl
    · exact ⟨15 - n / 8, by simp [elemCount]; omega, n % 8, by omega, by omega⟩
    · exact ⟨7 - n / 16, by simp [elemCount]; omega, n % 16, by omega, by omega⟩
    · exact ⟨3 - n / 32, by simp [elemCount]; omega, n % 32, by omega, by omega⟩
    · exact ⟨1 - n / 64, by simp [elemCount], n % 64, by omega, by omega⟩
    · exact ⟨0, by decide, n, hn, (Nat.zero_add n).symm⟩
  obtain ⟨i, hi, m, hm, rfl⟩ := key
  have := congrArg (fun x => x.getLsbD m) (h i hi)
  simp only [getLsbD_elem, hm, decide_true, Bool.true_and] at this
  exact this

theorem elem_ofElems (w : Nat) (xs : List (BitVec (8 * w))) (k : Nat) (hk : k < xs.length) (h : 8 * w * xs.length ≤ 128) :
    elem (ofElems w xs) w k = xs[k] := by
  have := elem_fillElems w xs 0 0#128 k hk (by simpa using h)
  rwa [Nat.zero_add] at this


/-! ### The ranges of R16 -/

theorem rangeIndices_full {w : Nat} (hw : IsWidth w) : rangeIndices .full (elemCount w) = List.range (elemCount w) := by
  rcases hw with rfl | rfl | rfl | rfl | rfl <;> decide

theorem rangeIndices_high {w : Nat} (hw : IsWidth w) :
    rangeIndices .high (elemCount w) = List.range (elemCount w / 2) := by
  rcases hw with rfl | rfl | rfl | rfl | rfl <;> decide

theorem rangeIndices_low {w : Nat} (hw : w = 1 ∨ w = 2 ∨ w = 4 ∨ w = 8) :
    rangeIndices .low (elemCount w) = (List.range (elemCount w / 2)).map (elemCount w / 2 + ·) := by
  rcases hw with rfl | rfl | rfl | rfl <;> decide

theorem rangeIndices_even {w : Nat} (hw : w = 1 ∨ w = 2 ∨ w = 4 ∨ w = 8) :
    rangeIndices .even (elemCount w) = (List.range (elemCount w / 2)).map (2 * ·) := by
  rcases hw with rfl | rfl | rfl | rfl <;> decide

theorem rangeIndices_odd {w : Nat} (hw : w = 1 ∨ w = 2 ∨ w = 4 ∨ w = 8) :
    rangeIndices .odd (elemCount w) = (List.range (elemCount w / 2)).map (2 * · + 1) := by
  rcases hw with rfl | rfl | rfl | rfl <;> decide

/-! ### Each element of a lane operator's result (R17, R18) -/

theorem elem_ofElems_map {w : Nat} (f : Nat → BitVec (8 * w)) (l : List Nat) (k : Nat) (hk : k < l.length)
    (h : 8 * w * l.length ≤ 128) : elem (ofElems w (l.map f)) w k = f l[k] := by
  rw [elem_ofElems w _ k (by simpa using hk) (by simpa using h)]
  simp

theorem elem_laneApply_full {w : Nat} (hw : IsWidth w) (op : Int → Int → Int) (a b : V128) (sg : Sign) (i : Nat)
    (hi : i < elemCount w) :
    elem (laneApply op a b w sg .full .same) w i =
      BitVec.ofInt (8 * w) (op (readElem sg a w i) (readElem sg b w i)) := by
  have hc := hw.elemCount_mul
  have := elem_ofElems_map (w := w) (fun i => BitVec.ofInt (8 * w) (op (readElem sg a w i) (readElem sg b w i)))
    (rangeIndices .full (elemCount w)) i (by simpa [rangeIndices_full hw] using hi) (by simp [rangeIndices_full hw, hc])
  exact this.trans (by simp [rangeIndices_full hw])

theorem elem_laneApply1_full {w : Nat} (hw : IsWidth w) (op : Int → Int) (a : V128) (sg : Sign) (i : Nat)
    (hi : i < elemCount w) :
    elem (laneApply1 op a w sg .full .same) w i = BitVec.ofInt (8 * w) (op (readElem sg a w i)) := by
  have hc := hw.elemCount_mul
  have := elem_ofElems_map (w := w) (fun i => BitVec.ofInt (8 * w) (op (readElem sg a w i)))
    (rangeIndices .full (elemCount w)) i (by simpa [rangeIndices_full hw] using hi) (by simp [rangeIndices_full hw, hc])
  exact this.trans (by simp [rangeIndices_full hw])

/-- The widths that a widening instruction reads: byte, halfword and word. -/
def IsNarrow (w : Nat) : Prop := w = 1 ∨ w = 2 ∨ w = 4

theorem IsNarrow.half_mul {w : Nat} (h : IsNarrow w) : 8 * (2 * w) * (elemCount w / 2) = 128 := by
  rcases h with rfl | rfl | rfl <;> rfl

theorem IsNarrow.isWidth {w : Nat} (h : IsNarrow w) : IsWidth w := by
  rcases h with rfl | rfl | rfl <;> simp [IsWidth]

theorem elem_laneApply_even {w : Nat} (hw : IsNarrow w) (op : Int → Int → Int) (a b : V128) (sg : Sign) (k : Nat)
    (hk : k < elemCount w / 2) :
    elem (laneApply op a b w sg .even .widened) (2 * w) k =
      BitVec.ofInt (8 * (2 * w)) (op (readElem sg a w (2 * k)) (readElem sg b w (2 * k))) := by
  have hr := rangeIndices_even (w := w) (by rcases hw with h | h | h <;> simp [h])
  have := elem_ofElems_map (w := 2 * w)
    (fun i => BitVec.ofInt (8 * (2 * w)) (op (readElem sg a w i) (readElem sg b w i)))
    (rangeIndices .even (elemCount w)) k (by simpa [hr] using hk) (by simp [hr, hw.half_mul])
  exact this.trans (by simp [hr])

theorem elem_laneApply_odd {w : Nat} (hw : IsNarrow w) (op : Int → Int → Int) (a b : V128) (sg : Sign) (k : Nat)
    (hk : k < elemCount w / 2) :
    elem (laneApply op a b w sg .odd .widened) (2 * w) k =
      BitVec.ofInt (8 * (2 * w)) (op (readElem sg a w (2 * k + 1)) (readElem sg b w (2 * k + 1))) := by
  have hr := rangeIndices_odd (w := w) (by rcases hw with h | h | h <;> simp [h])
  have := elem_ofElems_map (w := 2 * w)
    (fun i => BitVec.ofInt (8 * (2 * w)) (op (readElem sg a w i) (readElem sg b w i)))
    (rangeIndices .odd (elemCount w)) k (by simpa [hr] using hk) (by simp [hr, hw.half_mul])
  exact this.trans (by simp [hr])

theorem elem_laneApply1_high {w : Nat} (hw : IsNarrow w) (op : Int → Int) (a : V128) (sg : Sign) (k : Nat)
    (hk : k < elemCount w / 2) :
    elem (laneApply1 op a w sg .high .widened) (2 * w) k = BitVec.ofInt (8 * (2 * w)) (op (readElem sg a w k)) := by
  have hr := rangeIndices_high hw.isWidth
  have := elem_ofElems_map (w := 2 * w) (fun i => BitVec.ofInt (8 * (2 * w)) (op (readElem sg a w i)))
    (rangeIndices .high (elemCount w)) k (by simpa [hr] using hk) (by simp [hr, hw.half_mul])
  exact this.trans (by simp [hr])

theorem elem_laneApply1_low {w : Nat} (hw : IsNarrow w) (op : Int → Int) (a : V128) (sg : Sign) (k : Nat)
    (hk : k < elemCount w / 2) :
    elem (laneApply1 op a w sg .low .widened) (2 * w) k =
      BitVec.ofInt (8 * (2 * w)) (op (readElem sg a w (elemCount w / 2 + k))) := by
  have hr := rangeIndices_low (w := w) (by rcases hw with h | h | h <;> simp [h])
  have := elem_ofElems_map (w := 2 * w) (fun i => BitVec.ofInt (8 * (2 * w)) (op (readElem sg a w i)))
    (rangeIndices .low (elemCount w)) k (by simpa [hr] using hk) (by simp [hr, hw.half_mul])
  exact this.trans (by simp [hr])

/-- Byte `j` of element `i` is byte `w * i + j` of the register: all views alias the same 16 bytes (R11, R32). -/
theorem elem_byte {w : Nat} (v : V128) (i j : Nat) (hj : j < w) (hi : w * (i + 1) ≤ 16) :
    elem v 1 (w * i + j) = (elem v w i).extractLsb' (8 * (w - 1 - j)) 8 := by
  apply BitVec.eq_of_getLsbD_eq
  intro n hn
  have h1 : w * (i + 1) = w * i + w := Nat.mul_succ w i
  have h2 : 8 * w * (i + 1) = 8 * (w * i + w) := by rw [Nat.mul_assoc, h1]
  rw [getLsbD_elem]
  simp only [BitVec.getLsbD_extractLsb', getLsbD_elem, h2]
  have h3 : n < 8 := hn
  have h4 : 8 * (w - 1 - j) + n < 8 * w := by omega
  simp only [h3, h4, decide_true, Bool.true_and]
  congr 1
  omega

end Sys2Proof.Machine
end

