-- ==== Sys2Proof/Laws/Memory.lean ====
section
/-! SUPPORT. Memory: read after write, what a write leaves alone, and the canonical form, for one byte and for a run of bytes
(20_memory.md R60 to R63; 60_exceptions.md R357); and the big-endian bytes of a value (R12). -/

namespace Sys2Proof.Machine

/-! ### Cells -/

theorem cellsWf_mono {lo lo' : Nat} {l : List Host.Cell} (h : cellsWf lo l = true) (hle : lo' ≤ lo) :
    cellsWf lo' l = true := by
  cases l with
  | nil => rfl
  | cons c l =>
    simp only [cellsWf, Bool.and_eq_true, decide_eq_true_eq] at h ⊢
    exact ⟨⟨⟨by omega, h.1.1.2⟩, h.1.2⟩, h.2⟩

theorem readCell_of_lt {lo a : Nat} {l : List Host.Cell} (h : cellsWf lo l = true) (ha : a < lo) :
    readCell l a = unlistedByte := by
  cases l with
  | nil => rfl
  | cons c l =>
    simp only [cellsWf, Bool.and_eq_true, decide_eq_true_eq] at h
    rw [readCell, if_pos (by omega)]

theorem cellsWf_writeCell {lo a : Nat} {l : List Host.Cell} (b : Byte) (h : cellsWf lo l = true) (hlo : lo ≤ a)
    (ha : a < 2 ^ 64) : cellsWf lo (writeCell l a b) = true := by
  induction l generalizing lo with
  | nil =>
    by_cases hb : b = unlistedByte
    · simp [writeCell, hb, cellsWf]
    · simp [writeCell, hb, cellsWf, hlo, ha, -Nat.reducePow]
  | cons c l ih =>
    obtain ⟨k, v⟩ := c
    simp only [cellsWf, Bool.and_eq_true, decide_eq_true_eq] at h
    obtain ⟨⟨⟨h1, h2⟩, h3⟩, h4⟩ := h
    simp only [writeCell]
    split
    · split
      · simp only [cellsWf, h1, h2, h3, h4, decide_true, Bool.and_self]
      · rename_i hk hb
        simp [cellsWf, h2, h3, h4, hlo, ha, hb, -Nat.reducePow]; omega
    · split
      · split
        · exact cellsWf_mono h4 (by omega)
        · rename_i hk hb
          subst hk
          simp [cellsWf, h4, hlo, ha, hb, -Nat.reducePow]
      · simp only [cellsWf, Bool.and_eq_true, decide_eq_true_eq]
        exact ⟨⟨⟨h1, h2⟩, h3⟩, ih h4 (by omega)⟩

theorem readCell_writeCell {lo : Nat} {l : List Host.Cell} (h : cellsWf lo l = true) (a c : Nat) (b : Byte) :
    readCell (writeCell l a b) c = if c = a then b else readCell l c := by
  induction l generalizing lo with
  | nil =>
    by_cases hb : b = unlistedByte
    · simp [writeCell, hb, readCell]
    · simp only [writeCell, hb, if_false, readCell]
      split_ifs <;> first | rfl | omega
  | cons e l ih =>
    obtain ⟨k, v⟩ := e
    simp only [cellsWf, Bool.and_eq_true, decide_eq_true_eq] at h
    obtain ⟨⟨⟨h1, h2⟩, h3⟩, h4⟩ := h
    simp only [writeCell]
    split
    · split
      · rename_i hk hb
        by_cases hc : c = a
        · subst hc; simp [readCell, hk, hb]
        · simp [hc]
      · by_cases hc : c = a
        · subst hc; simp [readCell]
        · by_cases hlt : c < a
          · rw [readCell, if_pos hlt, if_neg hc, readCell, if_pos (by omega)]
          · conv_lhs => rw [readCell, if_neg hlt, if_neg hc]
            rw [if_neg hc]
    · split
      · rename_i hk
        subst hk
        split
        · rename_i hb
          by_cases hc : c = a
          · subst hc; simp [readCell_of_lt h4 (Nat.lt_succ_self c), hb]
          · by_cases hlt : c < a
            · simp [hc, readCell, hlt, readCell_of_lt h4 (show c < a + 1 by omega)]
            · simp [hc, readCell, hlt]
        · by_cases hc : c = a
          · subst hc; simp [readCell]
          · by_cases hlt : c < a <;> simp [readCell, hc, hlt]
      · rename_i h5 h6
        simp only [readCell, ih h4]
        by_cases hc : c = a
        · subst hc; simp [h5, h6]
        · simp [hc]

/-! ### One byte -/

theorem Mem.wf_writeByte {m : Mem} (a : Addr) (b : Byte) (h : m.wf = true) : (m.writeByte a b).wf = true :=
  cellsWf_writeCell b h (Nat.zero_le _) a.isLt

theorem Mem.byteAt_writeByte {m : Mem} (h : m.wf = true) (a c : Addr) (b : Byte) :
    (m.writeByte a b).byteAt c = if c = a then b else m.byteAt c := by
  simp only [Mem.byteAt, Mem.writeByte, readCell_writeCell h, BitVec.toNat_inj]

@[simp] theorem Mem.writeByte_refusals (m : Mem) (a : Addr) (b : Byte) : (m.writeByte a b).refusals = m.refusals := rfl

/-! ### Addresses of an access -/

theorem byteAddr_zero (a : Addr) : byteAddr a 0 = a := by simp [byteAddr]

theorem byteAddr_succ (a : Addr) (j : Nat) : byteAddr a (j + 1) = byteAddr (a + 1#64) j := by
  simp only [byteAddr, BitVec.ofNat_add]
  rw [BitVec.add_comm (BitVec.ofNat 64 j), ← BitVec.add_assoc]

theorem byteAddr_inj {a : Addr} {i j : Nat} (hi : i < 2 ^ 64) (hj : j < 2 ^ 64) (h : byteAddr a i = byteAddr a j) :
    i = j := by
  have h' : BitVec.ofNat 64 i = BitVec.ofNat 64 j := by simpa [byteAddr] using h
  have := congrArg BitVec.toNat h'
  rwa [BitVec.toNat_ofNat, BitVec.toNat_ofNat, Nat.mod_eq_of_lt hi, Nat.mod_eq_of_lt hj] at this

/-! ### Runs of bytes -/

theorem Mem.wf_writeBytes {m : Mem} (a : Addr) (bs : List Byte) (h : m.wf = true) : (m.writeBytes a bs).wf = true := by
  induction bs generalizing m a with
  | nil => exact h
  | cons b bs ih => exact ih _ (Mem.wf_writeByte _ _ h)

@[simp] theorem Mem.writeBytes_refusals (m : Mem) (a : Addr) (bs : List Byte) :
    (m.writeBytes a bs).refusals = m.refusals := by
  induction bs generalizing m a with
  | nil => rfl
  | cons b bs ih => rw [Mem.writeBytes, ih, Mem.writeByte_refusals]

theorem Mem.byteAt_writeBytes_outside {m : Mem} (h : m.wf = true) (a : Addr) (bs : List Byte) (c : Addr)
    (hc : ∀ j, j < bs.length → c ≠ byteAddr a j) : (m.writeBytes a bs).byteAt c = m.byteAt c := by
  induction bs generalizing m a with
  | nil => rfl
  | cons b bs ih =>
    rw [Mem.writeBytes, ih (Mem.wf_writeByte _ _ h), Mem.byteAt_writeByte h, if_neg]
    · simpa [byteAddr_zero] using hc 0 (by simp)
    · intro j hj; rw [← byteAddr_succ]; exact hc _ (by simpa using hj)

theorem Mem.byteAt_writeBytes_inside {m : Mem} (h : m.wf = true) (a : Addr) (bs : List Byte) (hl : bs.length ≤ 2 ^ 64)
    (j : Nat) (hj : j < bs.length) : (m.writeBytes a bs).byteAt (byteAddr a j) = bs[j] := by
  induction bs generalizing m a j with
  | nil => simp at hj
  | cons b bs ih =>
    rw [Mem.writeBytes]
    have hl' : bs.length < 2 ^ 64 := by simpa using hl
    cases j with
    | zero =>
      rw [Mem.byteAt_writeBytes_outside (Mem.wf_writeByte _ _ h), Mem.byteAt_writeByte h, byteAddr_zero]
      · simp
      · intro i hi he
        rw [← byteAddr_succ] at he
        have := byteAddr_inj (by omega) (by omega) he
        omega
    | succ j =>
      rw [byteAddr_succ, ih (Mem.wf_writeByte _ _ h) _ (by omega) j (by simpa using hj)]
      rfl

theorem Mem.wf_writeDrawn {m : Mem} (a : Addr) (d : Nat) (bs : List Byte) (h : m.wf = true) :
    (m.writeDrawn a d bs).wf = true := by
  induction bs generalizing m a d with
  | nil => exact h
  | cons b bs ih =>
    rw [Mem.writeDrawn]
    split
    · exact ih _ _ (Mem.wf_writeByte _ _ h)
    · exact ih _ _ h

@[simp] theorem Mem.writeDrawn_refusals (m : Mem) (a : Addr) (d : Nat) (bs : List Byte) :
    (m.writeDrawn a d bs).refusals = m.refusals := by
  induction bs generalizing m a d with
  | nil => rfl
  | cons b bs ih => rw [Mem.writeDrawn, ih]; split <;> rfl

theorem Mem.byteAt_writeDrawn_outside {m : Mem} (h : m.wf = true) (a : Addr) (d : Nat) (bs : List Byte) (c : Addr)
    (hc : ∀ j, j < bs.length → c ≠ byteAddr a j) : (m.writeDrawn a d bs).byteAt c = m.byteAt c := by
  induction bs generalizing m a d with
  | nil => rfl
  | cons b bs ih =>
    have h0 : c ≠ a := by simpa [byteAddr_zero] using hc 0 (by simp)
    have h1 : ∀ j, j < bs.length → c ≠ byteAddr (a + 1#64) j := by
      intro j hj; rw [← byteAddr_succ]; exact hc _ (by simpa using hj)
    rw [Mem.writeDrawn]
    split
    · rw [ih (Mem.wf_writeByte _ _ h) _ _ h1, Mem.byteAt_writeByte h, if_neg h0]
    · exact ih h _ _ h1

theorem Mem.byteAt_writeDrawn_inside {m : Mem} (h : m.wf = true) (a : Addr) (d : Nat) (bs : List Byte)
    (hl : bs.length ≤ 2 ^ 64) (j : Nat) (hj : j < bs.length) :
    (m.writeDrawn a d bs).byteAt (byteAddr a j) =
      if Config.partialStore (d + j) then bs[j] else m.byteAt (byteAddr a j) := by
  induction bs generalizing m a d j with
  | nil => simp at hj
  | cons b bs ih =>
    have hl' : bs.length < 2 ^ 64 := by simpa using hl
    have hw : (if Config.partialStore d then m.writeByte a b else m).wf = true := by
      split
      · exact Mem.wf_writeByte _ _ h
      · exact h
    rw [Mem.writeDrawn]
    cases j with
    | zero =>
      rw [Mem.byteAt_writeDrawn_outside hw, byteAddr_zero, Nat.add_zero]
      · split
        · rw [Mem.byteAt_writeByte h, if_pos rfl]; rfl
        · rfl
      · intro i hi he
        rw [← byteAddr_succ] at he
        have := byteAddr_inj (by omega) (by omega) he
        omega
    | succ j =>
      rw [byteAddr_succ, ih hw _ _ (by omega) j (by simpa using hj), show d + 1 + j = d + (j + 1) by omega]
      have hne : byteAddr (a + 1#64) j ≠ a := by
        rw [← byteAddr_succ]
        intro he
        have := byteAddr_inj (a := a) (i := j + 1) (j := 0) (by simp at hj; omega) (by omega) (by rwa [byteAddr_zero])
        omega
      congr 1
      split
      · rw [Mem.byteAt_writeByte h, if_neg hne]
      · rfl

/-! ### Reads -/

@[simp] theorem Mem.length_bytesAt (m : Mem) (a : Addr) (n : Nat) : (m.bytesAt a n).length = n := by
  simp [Mem.bytesAt]

@[simp] theorem Mem.getElem_bytesAt (m : Mem) (a : Addr) (n j : Nat) (h : j < (m.bytesAt a n).length) :
    (m.bytesAt a n)[j] = m.byteAt (byteAddr a j) := by
  simp [Mem.bytesAt]

/-! ### Big-endian values -/

@[simp] theorem length_beBytes (n : Nat) (x : BitVec (8 * n)) : (beBytes n x).length = n := by simp [beBytes]

theorem getElem_beBytes (n : Nat) (x : BitVec (8 * n)) (j : Nat) (h : j < (beBytes n x).length) :
    (beBytes n x)[j] = x.extractLsb' (8 * (n - 1 - j)) 8 := by
  simp [beBytes]

theorem getLsbD_foldl_beWord (m : Nat) (bs : List Byte) (x : BitVec m) (k : Nat) (hk : k < m) :
    (bs.foldl (fun (y : BitVec m) b => (y <<< 8) ||| b.setWidth m) x).getLsbD k =
      if h : k < 8 * bs.length then (bs[bs.length - 1 - k / 8]'(by omega)).getLsbD (k % 8)
      else x.getLsbD (k - 8 * bs.length) := by
  induction bs generalizing x with
  | nil => simp
  | cons b bs ih =>
    rw [List.foldl_cons, ih]
    by_cases h1 : k < 8 * bs.length
    · have h2 : k < 8 * (b :: bs).length := by simp; omega
      rw [dif_pos h1, dif_pos h2]
      have : (b :: bs).length - 1 - k / 8 = (bs.length - 1 - k / 8) + 1 := by simp; omega
      simp only [this, List.getElem_cons_succ]
    · rw [dif_neg h1]
      by_cases h2 : k < 8 * (b :: bs).length
      · rw [dif_pos h2]
        have h3 : k - 8 * bs.length < 8 := by simp at h2; omega
        have : (b :: bs).length - 1 - k / 8 = 0 := by simp; omega
        simp only [this, List.getElem_cons_zero, BitVec.getLsbD_or, BitVec.getLsbD_shiftLeft, h3, decide_true,
          BitVec.getLsbD_setWidth]
        have : k - 8 * bs.length = k % 8 := by omega
        simp [this]; omega
      · rw [dif_neg h2]
        have h3 : ¬ k - 8 * bs.length < 8 := by simp at h2; omega
        have h4 : k - 8 * bs.length - 8 = k - 8 * (b :: bs).length := by simp; omega
        have h5 : b.getLsbD (k - 8 * bs.length) = false := BitVec.getLsbD_of_ge _ _ (by omega)
        simp only [BitVec.getLsbD_or, BitVec.getLsbD_shiftLeft, h3, decide_false, Bool.not_false, Bool.and_true,
          BitVec.getLsbD_setWidth, h4, h5, Bool.and_false, Bool.or_false]
        simp; omega

/-- Byte `j` of a big-endian value is the `j`-th byte in memory order. -/
theorem extractLsb'_beWord (n : Nat) (bs : List Byte) (hl : bs.length = n) (j : Nat) (hj : j < n) :
    (beWord n bs).extractLsb' (8 * (n - 1 - j)) 8 = bs[j]'(by omega) := by
  subst hl
  apply BitVec.eq_of_getLsbD_eq
  intro k hk
  have h1 : 8 * (bs.length - 1 - j) + k < 8 * bs.length := by omega
  simp only [BitVec.getLsbD_extractLsb', hk, decide_true, Bool.true_and, beWord]
  rw [getLsbD_foldl_beWord _ _ _ _ h1, dif_pos h1]
  have h2 : bs.length - 1 - (8 * (bs.length - 1 - j) + k) / 8 = j := by omega
  have h3 : (8 * (bs.length - 1 - j) + k) % 8 = k := by omega
  simp only [h2, h3]

/-- Writing a value out big-endian and reading it back gives it again (R63). -/
theorem beWord_beBytes (n : Nat) (x : BitVec (8 * n)) : beWord n (beBytes n x) = x := by
  apply BitVec.eq_of_getLsbD_eq
  intro k hk
  rw [beWord, getLsbD_foldl_beWord _ _ _ _ hk, dif_pos (by simpa using hk)]
  simp only [getElem_beBytes, length_beBytes, BitVec.getLsbD_extractLsb', Nat.mod_lt k (by omega : 0 < 8), decide_true,
    Bool.true_and]
  congr 1
  omega

end Sys2Proof.Machine
end

