-- ==== Sys2Proof/Laws/State.lean ====
section
/-! SUPPORT. The field lemmas of State's updates: one for each field of each update, true by rfl, so that no proof unfolds a
record update; and the register accessors over them. -/

namespace Sys2Proof.Machine

/-! ### writeVR -/

@[simp] theorem writeVR_vr (s : State) (r : VReg) (v : V128) : (s.writeVR r v).vr = s.vr.set r.toNat v r.isLt := rfl
@[simp] theorem writeVR_gr (s : State) (r : VReg) (v : V128) : (s.writeVR r v).gr = s.gr := rfl
@[simp] theorem writeVR_cc (s : State) (r : VReg) (v : V128) : (s.writeVR r v).cc = s.cc := rfl
@[simp] theorem writeVR_vrSupplied (s : State) (r : VReg) (v : V128) : (s.writeVR r v).vrSupplied = s.vrSupplied.set r.toNat true r.isLt := rfl
@[simp] theorem writeVR_grSupplied (s : State) (r : VReg) (v : V128) : (s.writeVR r v).grSupplied = s.grSupplied := rfl
@[simp] theorem writeVR_ccSupplied (s : State) (r : VReg) (v : V128) : (s.writeVR r v).ccSupplied = s.ccSupplied := rfl
@[simp] theorem writeVR_mem (s : State) (r : VReg) (v : V128) : (s.writeVR r v).mem = s.mem := rfl
@[simp] theorem writeVR_params (s : State) (r : VReg) (v : V128) : (s.writeVR r v).params = s.params := rfl
@[simp] theorem writeVR_stream (s : State) (r : VReg) (v : V128) : (s.writeVR r v).stream = s.stream := rfl
@[simp] theorem writeVR_ia (s : State) (r : VReg) (v : V128) : (s.writeVR r v).ia = s.ia := rfl
@[simp] theorem writeVR_draws (s : State) (r : VReg) (v : V128) : (s.writeVR r v).draws = s.draws := rfl

/-! ### writeGR -/

@[simp] theorem writeGR_vr (s : State) (r : GReg) (v : Word64) : (s.writeGR r v).vr = s.vr := rfl
@[simp] theorem writeGR_gr (s : State) (r : GReg) (v : Word64) : (s.writeGR r v).gr = s.gr.set r.toNat v r.isLt := rfl
@[simp] theorem writeGR_cc (s : State) (r : GReg) (v : Word64) : (s.writeGR r v).cc = s.cc := rfl
@[simp] theorem writeGR_vrSupplied (s : State) (r : GReg) (v : Word64) : (s.writeGR r v).vrSupplied = s.vrSupplied := rfl
@[simp] theorem writeGR_grSupplied (s : State) (r : GReg) (v : Word64) : (s.writeGR r v).grSupplied = s.grSupplied.set r.toNat true r.isLt := rfl
@[simp] theorem writeGR_ccSupplied (s : State) (r : GReg) (v : Word64) : (s.writeGR r v).ccSupplied = s.ccSupplied := rfl
@[simp] theorem writeGR_mem (s : State) (r : GReg) (v : Word64) : (s.writeGR r v).mem = s.mem := rfl
@[simp] theorem writeGR_params (s : State) (r : GReg) (v : Word64) : (s.writeGR r v).params = s.params := rfl
@[simp] theorem writeGR_stream (s : State) (r : GReg) (v : Word64) : (s.writeGR r v).stream = s.stream := rfl
@[simp] theorem writeGR_ia (s : State) (r : GReg) (v : Word64) : (s.writeGR r v).ia = s.ia := rfl
@[simp] theorem writeGR_draws (s : State) (r : GReg) (v : Word64) : (s.writeGR r v).draws = s.draws := rfl

/-! ### writeCC -/

@[simp] theorem writeCC_vr (s : State) (c : CondCode) : (s.writeCC c).vr = s.vr := rfl
@[simp] theorem writeCC_gr (s : State) (c : CondCode) : (s.writeCC c).gr = s.gr := rfl
@[simp] theorem writeCC_cc (s : State) (c : CondCode) : (s.writeCC c).cc = c := rfl
@[simp] theorem writeCC_vrSupplied (s : State) (c : CondCode) : (s.writeCC c).vrSupplied = s.vrSupplied := rfl
@[simp] theorem writeCC_grSupplied (s : State) (c : CondCode) : (s.writeCC c).grSupplied = s.grSupplied := rfl
@[simp] theorem writeCC_ccSupplied (s : State) (c : CondCode) : (s.writeCC c).ccSupplied = true := rfl
@[simp] theorem writeCC_mem (s : State) (c : CondCode) : (s.writeCC c).mem = s.mem := rfl
@[simp] theorem writeCC_params (s : State) (c : CondCode) : (s.writeCC c).params = s.params := rfl
@[simp] theorem writeCC_stream (s : State) (c : CondCode) : (s.writeCC c).stream = s.stream := rfl
@[simp] theorem writeCC_ia (s : State) (c : CondCode) : (s.writeCC c).ia = s.ia := rfl
@[simp] theorem writeCC_draws (s : State) (c : CondCode) : (s.writeCC c).draws = s.draws := rfl

/-! ### drawnTimes -/

@[simp] theorem drawnTimes_vr (s : State) (n : Nat) : (s.drawnTimes n).vr = s.vr := rfl
@[simp] theorem drawnTimes_gr (s : State) (n : Nat) : (s.drawnTimes n).gr = s.gr := rfl
@[simp] theorem drawnTimes_cc (s : State) (n : Nat) : (s.drawnTimes n).cc = s.cc := rfl
@[simp] theorem drawnTimes_vrSupplied (s : State) (n : Nat) : (s.drawnTimes n).vrSupplied = s.vrSupplied := rfl
@[simp] theorem drawnTimes_grSupplied (s : State) (n : Nat) : (s.drawnTimes n).grSupplied = s.grSupplied := rfl
@[simp] theorem drawnTimes_ccSupplied (s : State) (n : Nat) : (s.drawnTimes n).ccSupplied = s.ccSupplied := rfl
@[simp] theorem drawnTimes_mem (s : State) (n : Nat) : (s.drawnTimes n).mem = s.mem := rfl
@[simp] theorem drawnTimes_params (s : State) (n : Nat) : (s.drawnTimes n).params = s.params := rfl
@[simp] theorem drawnTimes_stream (s : State) (n : Nat) : (s.drawnTimes n).stream = s.stream := rfl
@[simp] theorem drawnTimes_ia (s : State) (n : Nat) : (s.drawnTimes n).ia = s.ia := rfl
@[simp] theorem drawnTimes_draws (s : State) (n : Nat) : (s.drawnTimes n).draws = s.draws + n := rfl

/-! ### withMem -/

@[simp] theorem withMem_vr (s : State) (m : Mem) : (s.withMem m).vr = s.vr := rfl
@[simp] theorem withMem_gr (s : State) (m : Mem) : (s.withMem m).gr = s.gr := rfl
@[simp] theorem withMem_cc (s : State) (m : Mem) : (s.withMem m).cc = s.cc := rfl
@[simp] theorem withMem_vrSupplied (s : State) (m : Mem) : (s.withMem m).vrSupplied = s.vrSupplied := rfl
@[simp] theorem withMem_grSupplied (s : State) (m : Mem) : (s.withMem m).grSupplied = s.grSupplied := rfl
@[simp] theorem withMem_ccSupplied (s : State) (m : Mem) : (s.withMem m).ccSupplied = s.ccSupplied := rfl
@[simp] theorem withMem_mem (s : State) (m : Mem) : (s.withMem m).mem = m := rfl
@[simp] theorem withMem_params (s : State) (m : Mem) : (s.withMem m).params = s.params := rfl
@[simp] theorem withMem_stream (s : State) (m : Mem) : (s.withMem m).stream = s.stream := rfl
@[simp] theorem withMem_ia (s : State) (m : Mem) : (s.withMem m).ia = s.ia := rfl
@[simp] theorem withMem_draws (s : State) (m : Mem) : (s.withMem m).draws = s.draws := rfl

/-! ### advance -/

@[simp] theorem advance_vr (s : State) (len : Nat) (rest : List Byte) : (s.advance len rest).vr = s.vr := rfl
@[simp] theorem advance_gr (s : State) (len : Nat) (rest : List Byte) : (s.advance len rest).gr = s.gr := rfl
@[simp] theorem advance_cc (s : State) (len : Nat) (rest : List Byte) : (s.advance len rest).cc = s.cc := rfl
@[simp] theorem advance_vrSupplied (s : State) (len : Nat) (rest : List Byte) : (s.advance len rest).vrSupplied = s.vrSupplied := rfl
@[simp] theorem advance_grSupplied (s : State) (len : Nat) (rest : List Byte) : (s.advance len rest).grSupplied = s.grSupplied := rfl
@[simp] theorem advance_ccSupplied (s : State) (len : Nat) (rest : List Byte) : (s.advance len rest).ccSupplied = s.ccSupplied := rfl
@[simp] theorem advance_mem (s : State) (len : Nat) (rest : List Byte) : (s.advance len rest).mem = s.mem := rfl
@[simp] theorem advance_params (s : State) (len : Nat) (rest : List Byte) : (s.advance len rest).params = s.params := rfl
@[simp] theorem advance_stream (s : State) (len : Nat) (rest : List Byte) : (s.advance len rest).stream = rest := rfl
@[simp] theorem advance_ia (s : State) (len : Nat) (rest : List Byte) : (s.advance len rest).ia = s.ia + BitVec.ofNat 64 len := rfl
@[simp] theorem advance_draws (s : State) (len : Nat) (rest : List Byte) : (s.advance len rest).draws = s.draws := rfl

/-! ### handBytes -/

@[simp] theorem handBytes_vr (s : State) (bs : List Byte) : (s.handBytes bs).vr = s.vr := rfl
@[simp] theorem handBytes_gr (s : State) (bs : List Byte) : (s.handBytes bs).gr = s.gr := rfl
@[simp] theorem handBytes_cc (s : State) (bs : List Byte) : (s.handBytes bs).cc = s.cc := rfl
@[simp] theorem handBytes_vrSupplied (s : State) (bs : List Byte) : (s.handBytes bs).vrSupplied = s.vrSupplied := rfl
@[simp] theorem handBytes_grSupplied (s : State) (bs : List Byte) : (s.handBytes bs).grSupplied = s.grSupplied := rfl
@[simp] theorem handBytes_ccSupplied (s : State) (bs : List Byte) : (s.handBytes bs).ccSupplied = s.ccSupplied := rfl
@[simp] theorem handBytes_mem (s : State) (bs : List Byte) : (s.handBytes bs).mem = s.mem := rfl
@[simp] theorem handBytes_params (s : State) (bs : List Byte) : (s.handBytes bs).params = s.params := rfl
@[simp] theorem handBytes_stream (s : State) (bs : List Byte) : (s.handBytes bs).stream = bs := rfl
@[simp] theorem handBytes_ia (s : State) (bs : List Byte) : (s.handBytes bs).ia = s.ia := rfl
@[simp] theorem handBytes_draws (s : State) (bs : List Byte) : (s.handBytes bs).draws = s.draws := rfl

/-! ### drawn -/

@[simp] theorem drawn_vr (s : State) : s.drawn.vr = s.vr := rfl
@[simp] theorem drawn_gr (s : State) : s.drawn.gr = s.gr := rfl
@[simp] theorem drawn_cc (s : State) : s.drawn.cc = s.cc := rfl
@[simp] theorem drawn_vrSupplied (s : State) : s.drawn.vrSupplied = s.vrSupplied := rfl
@[simp] theorem drawn_grSupplied (s : State) : s.drawn.grSupplied = s.grSupplied := rfl
@[simp] theorem drawn_ccSupplied (s : State) : s.drawn.ccSupplied = s.ccSupplied := rfl
@[simp] theorem drawn_mem (s : State) : s.drawn.mem = s.mem := rfl
@[simp] theorem drawn_params (s : State) : s.drawn.params = s.params := rfl
@[simp] theorem drawn_stream (s : State) : s.drawn.stream = s.stream := rfl
@[simp] theorem drawn_ia (s : State) : s.drawn.ia = s.ia := rfl
@[simp] theorem drawn_draws (s : State) : s.drawn.draws = s.draws + 1 := rfl

/-! ### Register accessors -/

theorem writeVR_vrAt (s : State) (r q : VReg) (v : V128) :
    (s.writeVR r v).vrAt q = if r = q then v else s.vrAt q := by
  simp [State.vrAt, Vector.get_eq_getElem, Vector.getElem_set, BitVec.toNat_inj]

@[simp] theorem writeVR_vrAt_self (s : State) (r : VReg) (v : V128) : (s.writeVR r v).vrAt r = v := by
  simp [writeVR_vrAt]

theorem writeVR_vrHeld (s : State) (r q : VReg) (v : V128) :
    (s.writeVR r v).vrHeld q = if r = q then true else s.vrHeld q := by
  simp [State.vrHeld, Vector.get_eq_getElem, Vector.getElem_set, BitVec.toNat_inj]

theorem writeGR_grAt (s : State) (r q : GReg) (v : Word64) :
    (s.writeGR r v).grAt q = if r = q then v else s.grAt q := by
  simp [State.grAt, Vector.get_eq_getElem, Vector.getElem_set, BitVec.toNat_inj]

@[simp] theorem writeGR_grAt_self (s : State) (r : GReg) (v : Word64) : (s.writeGR r v).grAt r = v := by
  simp [writeGR_grAt]

theorem writeGR_grHeld (s : State) (r q : GReg) (v : Word64) :
    (s.writeGR r v).grHeld q = if r = q then true else s.grHeld q := by
  simp [State.grHeld, Vector.get_eq_getElem, Vector.getElem_set, BitVec.toNat_inj]

@[simp] theorem writeVR_grAt (s : State) (r : VReg) (v : V128) (q : GReg) : (s.writeVR r v).grAt q = s.grAt q := rfl
@[simp] theorem writeVR_grHeld (s : State) (r : VReg) (v : V128) (q : GReg) : (s.writeVR r v).grHeld q = s.grHeld q := rfl
@[simp] theorem writeGR_vrAt (s : State) (r : GReg) (v : Word64) (q : VReg) : (s.writeGR r v).vrAt q = s.vrAt q := rfl
@[simp] theorem writeGR_vrHeld (s : State) (r : GReg) (v : Word64) (q : VReg) : (s.writeGR r v).vrHeld q = s.vrHeld q := rfl
@[simp] theorem writeCC_vrAt (s : State) (c : CondCode) (q : VReg) : (s.writeCC c).vrAt q = s.vrAt q := rfl
@[simp] theorem writeCC_vrHeld (s : State) (c : CondCode) (q : VReg) : (s.writeCC c).vrHeld q = s.vrHeld q := rfl
@[simp] theorem writeCC_grAt (s : State) (c : CondCode) (q : GReg) : (s.writeCC c).grAt q = s.grAt q := rfl
@[simp] theorem writeCC_grHeld (s : State) (c : CondCode) (q : GReg) : (s.writeCC c).grHeld q = s.grHeld q := rfl
@[simp] theorem drawnTimes_vrAt (s : State) (n : Nat) (q : VReg) : (s.drawnTimes n).vrAt q = s.vrAt q := rfl
@[simp] theorem drawnTimes_vrHeld (s : State) (n : Nat) (q : VReg) : (s.drawnTimes n).vrHeld q = s.vrHeld q := rfl
@[simp] theorem drawnTimes_grAt (s : State) (n : Nat) (q : GReg) : (s.drawnTimes n).grAt q = s.grAt q := rfl
@[simp] theorem drawnTimes_grHeld (s : State) (n : Nat) (q : GReg) : (s.drawnTimes n).grHeld q = s.grHeld q := rfl
@[simp] theorem withMem_vrAt (s : State) (m : Mem) (q : VReg) : (s.withMem m).vrAt q = s.vrAt q := rfl
@[simp] theorem withMem_vrHeld (s : State) (m : Mem) (q : VReg) : (s.withMem m).vrHeld q = s.vrHeld q := rfl
@[simp] theorem withMem_grAt (s : State) (m : Mem) (q : GReg) : (s.withMem m).grAt q = s.grAt q := rfl
@[simp] theorem withMem_grHeld (s : State) (m : Mem) (q : GReg) : (s.withMem m).grHeld q = s.grHeld q := rfl
@[simp] theorem advance_vrAt (s : State) (len : Nat) (rest : List Byte) (q : VReg) : (s.advance len rest).vrAt q = s.vrAt q := rfl
@[simp] theorem advance_vrHeld (s : State) (len : Nat) (rest : List Byte) (q : VReg) : (s.advance len rest).vrHeld q = s.vrHeld q := rfl
@[simp] theorem advance_grAt (s : State) (len : Nat) (rest : List Byte) (q : GReg) : (s.advance len rest).grAt q = s.grAt q := rfl
@[simp] theorem advance_grHeld (s : State) (len : Nat) (rest : List Byte) (q : GReg) : (s.advance len rest).grHeld q = s.grHeld q := rfl
@[simp] theorem handBytes_vrAt (s : State) (bs : List Byte) (q : VReg) : (s.handBytes bs).vrAt q = s.vrAt q := rfl
@[simp] theorem handBytes_vrHeld (s : State) (bs : List Byte) (q : VReg) : (s.handBytes bs).vrHeld q = s.vrHeld q := rfl
@[simp] theorem handBytes_grAt (s : State) (bs : List Byte) (q : GReg) : (s.handBytes bs).grAt q = s.grAt q := rfl
@[simp] theorem handBytes_grHeld (s : State) (bs : List Byte) (q : GReg) : (s.handBytes bs).grHeld q = s.grHeld q := rfl
@[simp] theorem drawn_vrAt (s : State) (q : VReg) : s.drawn.vrAt q = s.vrAt q := rfl
@[simp] theorem drawn_vrHeld (s : State) (q : VReg) : s.drawn.vrHeld q = s.vrHeld q := rfl
@[simp] theorem drawn_grAt (s : State) (q : GReg) : s.drawn.grAt q = s.grAt q := rfl
@[simp] theorem drawn_grHeld (s : State) (q : GReg) : s.drawn.grHeld q = s.grHeld q := rfl

/-! ### The state after a read: only the number of draws differs -/

@[simp] theorem afterVR_vr (s : State) (r : VReg) : (s.afterVR r).vr = s.vr := by
  unfold State.afterVR; split <;> rfl
@[simp] theorem afterVR_gr (s : State) (r : VReg) : (s.afterVR r).gr = s.gr := by
  unfold State.afterVR; split <;> rfl
@[simp] theorem afterVR_cc (s : State) (r : VReg) : (s.afterVR r).cc = s.cc := by
  unfold State.afterVR; split <;> rfl
@[simp] theorem afterVR_vrSupplied (s : State) (r : VReg) : (s.afterVR r).vrSupplied = s.vrSupplied := by
  unfold State.afterVR; split <;> rfl
@[simp] theorem afterVR_grSupplied (s : State) (r : VReg) : (s.afterVR r).grSupplied = s.grSupplied := by
  unfold State.afterVR; split <;> rfl
@[simp] theorem afterVR_ccSupplied (s : State) (r : VReg) : (s.afterVR r).ccSupplied = s.ccSupplied := by
  unfold State.afterVR; split <;> rfl
@[simp] theorem afterVR_mem (s : State) (r : VReg) : (s.afterVR r).mem = s.mem := by
  unfold State.afterVR; split <;> rfl
@[simp] theorem afterVR_params (s : State) (r : VReg) : (s.afterVR r).params = s.params := by
  unfold State.afterVR; split <;> rfl
@[simp] theorem afterVR_stream (s : State) (r : VReg) : (s.afterVR r).stream = s.stream := by
  unfold State.afterVR; split <;> rfl
@[simp] theorem afterVR_ia (s : State) (r : VReg) : (s.afterVR r).ia = s.ia := by
  unfold State.afterVR; split <;> rfl
@[simp] theorem afterVR_vrAt (s : State) (r : VReg) (q : VReg) : (s.afterVR r).vrAt q = s.vrAt q := by
  simp [State.vrAt]
@[simp] theorem afterVR_vrHeld (s : State) (r : VReg) (q : VReg) : (s.afterVR r).vrHeld q = s.vrHeld q := by
  simp [State.vrHeld]
@[simp] theorem afterVR_grAt (s : State) (r : VReg) (q : GReg) : (s.afterVR r).grAt q = s.grAt q := by
  simp [State.grAt]
@[simp] theorem afterVR_grHeld (s : State) (r : VReg) (q : GReg) : (s.afterVR r).grHeld q = s.grHeld q := by
  simp [State.grHeld]
@[simp] theorem afterGR_vr (s : State) (r : GReg) : (s.afterGR r).vr = s.vr := by
  unfold State.afterGR; split <;> rfl
@[simp] theorem afterGR_gr (s : State) (r : GReg) : (s.afterGR r).gr = s.gr := by
  unfold State.afterGR; split <;> rfl
@[simp] theorem afterGR_cc (s : State) (r : GReg) : (s.afterGR r).cc = s.cc := by
  unfold State.afterGR; split <;> rfl
@[simp] theorem afterGR_vrSupplied (s : State) (r : GReg) : (s.afterGR r).vrSupplied = s.vrSupplied := by
  unfold State.afterGR; split <;> rfl
@[simp] theorem afterGR_grSupplied (s : State) (r : GReg) : (s.afterGR r).grSupplied = s.grSupplied := by
  unfold State.afterGR; split <;> rfl
@[simp] theorem afterGR_ccSupplied (s : State) (r : GReg) : (s.afterGR r).ccSupplied = s.ccSupplied := by
  unfold State.afterGR; split <;> rfl
@[simp] theorem afterGR_mem (s : State) (r : GReg) : (s.afterGR r).mem = s.mem := by
  unfold State.afterGR; split <;> rfl
@[simp] theorem afterGR_params (s : State) (r : GReg) : (s.afterGR r).params = s.params := by
  unfold State.afterGR; split <;> rfl
@[simp] theorem afterGR_stream (s : State) (r : GReg) : (s.afterGR r).stream = s.stream := by
  unfold State.afterGR; split <;> rfl
@[simp] theorem afterGR_ia (s : State) (r : GReg) : (s.afterGR r).ia = s.ia := by
  unfold State.afterGR; split <;> rfl
@[simp] theorem afterGR_vrAt (s : State) (r : GReg) (q : VReg) : (s.afterGR r).vrAt q = s.vrAt q := by
  simp [State.vrAt]
@[simp] theorem afterGR_vrHeld (s : State) (r : GReg) (q : VReg) : (s.afterGR r).vrHeld q = s.vrHeld q := by
  simp [State.vrHeld]
@[simp] theorem afterGR_grAt (s : State) (r : GReg) (q : GReg) : (s.afterGR r).grAt q = s.grAt q := by
  simp [State.grAt]
@[simp] theorem afterGR_grHeld (s : State) (r : GReg) (q : GReg) : (s.afterGR r).grHeld q = s.grHeld q := by
  simp [State.grHeld]
@[simp] theorem afterCC_vr (s : State) : (s.afterCC).vr = s.vr := by
  unfold State.afterCC; split <;> rfl
@[simp] theorem afterCC_gr (s : State) : (s.afterCC).gr = s.gr := by
  unfold State.afterCC; split <;> rfl
@[simp] theorem afterCC_cc (s : State) : (s.afterCC).cc = s.cc := by
  unfold State.afterCC; split <;> rfl
@[simp] theorem afterCC_vrSupplied (s : State) : (s.afterCC).vrSupplied = s.vrSupplied := by
  unfold State.afterCC; split <;> rfl
@[simp] theorem afterCC_grSupplied (s : State) : (s.afterCC).grSupplied = s.grSupplied := by
  unfold State.afterCC; split <;> rfl
@[simp] theorem afterCC_ccSupplied (s : State) : (s.afterCC).ccSupplied = s.ccSupplied := by
  unfold State.afterCC; split <;> rfl
@[simp] theorem afterCC_mem (s : State) : (s.afterCC).mem = s.mem := by
  unfold State.afterCC; split <;> rfl
@[simp] theorem afterCC_params (s : State) : (s.afterCC).params = s.params := by
  unfold State.afterCC; split <;> rfl
@[simp] theorem afterCC_stream (s : State) : (s.afterCC).stream = s.stream := by
  unfold State.afterCC; split <;> rfl
@[simp] theorem afterCC_ia (s : State) : (s.afterCC).ia = s.ia := by
  unfold State.afterCC; split <;> rfl
@[simp] theorem afterCC_vrAt (s : State) (q : VReg) : (s.afterCC).vrAt q = s.vrAt q := by
  simp [State.vrAt]
@[simp] theorem afterCC_vrHeld (s : State) (q : VReg) : (s.afterCC).vrHeld q = s.vrHeld q := by
  simp [State.vrHeld]
@[simp] theorem afterCC_grAt (s : State) (q : GReg) : (s.afterCC).grAt q = s.grAt q := by
  simp [State.grAt]
@[simp] theorem afterCC_grHeld (s : State) (q : GReg) : (s.afterCC).grHeld q = s.grHeld q := by
  simp [State.grHeld]
@[simp] theorem afterBase_vr (s : State) (b : GReg) : (s.afterBase b).vr = s.vr := by
  unfold State.afterBase; split <;> simp
@[simp] theorem afterBase_gr (s : State) (b : GReg) : (s.afterBase b).gr = s.gr := by
  unfold State.afterBase; split <;> simp
@[simp] theorem afterBase_cc (s : State) (b : GReg) : (s.afterBase b).cc = s.cc := by
  unfold State.afterBase; split <;> simp
@[simp] theorem afterBase_vrSupplied (s : State) (b : GReg) : (s.afterBase b).vrSupplied = s.vrSupplied := by
  unfold State.afterBase; split <;> simp
@[simp] theorem afterBase_grSupplied (s : State) (b : GReg) : (s.afterBase b).grSupplied = s.grSupplied := by
  unfold State.afterBase; split <;> simp
@[simp] theorem afterBase_ccSupplied (s : State) (b : GReg) : (s.afterBase b).ccSupplied = s.ccSupplied := by
  unfold State.afterBase; split <;> simp
@[simp] theorem afterBase_mem (s : State) (b : GReg) : (s.afterBase b).mem = s.mem := by
  unfold State.afterBase; split <;> simp
@[simp] theorem afterBase_params (s : State) (b : GReg) : (s.afterBase b).params = s.params := by
  unfold State.afterBase; split <;> simp
@[simp] theorem afterBase_stream (s : State) (b : GReg) : (s.afterBase b).stream = s.stream := by
  unfold State.afterBase; split <;> simp
@[simp] theorem afterBase_ia (s : State) (b : GReg) : (s.afterBase b).ia = s.ia := by
  unfold State.afterBase; split <;> simp
@[simp] theorem afterBase_vrAt (s : State) (b : GReg) (q : VReg) : (s.afterBase b).vrAt q = s.vrAt q := by
  simp [State.vrAt]
@[simp] theorem afterBase_vrHeld (s : State) (b : GReg) (q : VReg) : (s.afterBase b).vrHeld q = s.vrHeld q := by
  simp [State.vrHeld]
@[simp] theorem afterBase_grAt (s : State) (b : GReg) (q : GReg) : (s.afterBase b).grAt q = s.grAt q := by
  simp [State.grAt]
@[simp] theorem afterBase_grHeld (s : State) (b : GReg) (q : GReg) : (s.afterBase b).grHeld q = s.grHeld q := by
  simp [State.grHeld]

theorem afterVR_of_held {s : State} {r : VReg} (h : s.vrHeld r = true) : s.afterVR r = s := by
  simp [State.afterVR, h]

theorem afterGR_of_held {s : State} {r : GReg} (h : s.grHeld r = true) : s.afterGR r = s := by
  simp [State.afterGR, h]

theorem afterCC_of_held {s : State} (h : s.ccSupplied = true) : s.afterCC = s := by
  simp [State.afterCC, h]

theorem vrValue_of_held {s : State} {r : VReg} (h : s.vrHeld r = true) : s.vrValue r = s.vrAt r := by
  simp [State.vrValue, h]

theorem grValue_of_held {s : State} {r : GReg} (h : s.grHeld r = true) : s.grValue r = s.grAt r := by
  simp [State.grValue, h]

theorem ccValue_of_held {s : State} (h : s.ccSupplied = true) : s.ccValue = s.cc := by
  simp [State.ccValue, h]

/-! ### Readability does not change along the reads of an instruction -/

@[simp] theorem afterVR_vrReadable (s : State) (r : VReg) (q : VReg) : (s.afterVR r).vrReadable q = s.vrReadable q := by
  simp [State.vrReadable, State.drawsUnwritten]
@[simp] theorem afterVR_grReadable (s : State) (r : VReg) (q : GReg) : (s.afterVR r).grReadable q = s.grReadable q := by
  simp [State.grReadable, State.drawsUnwritten]
@[simp] theorem afterVR_baseReadable (s : State) (r : VReg) (q : GReg) : (s.afterVR r).baseReadable q = s.baseReadable q := by
  simp [State.baseReadable, State.grReadable, State.drawsUnwritten]
@[simp] theorem afterVR_ccReadable (s : State) (r : VReg) : (s.afterVR r).ccReadable = s.ccReadable := by
  simp [State.ccReadable, State.drawsUnwritten]
@[simp] theorem afterGR_vrReadable (s : State) (r : GReg) (q : VReg) : (s.afterGR r).vrReadable q = s.vrReadable q := by
  simp [State.vrReadable, State.drawsUnwritten]
@[simp] theorem afterGR_grReadable (s : State) (r : GReg) (q : GReg) : (s.afterGR r).grReadable q = s.grReadable q := by
  simp [State.grReadable, State.drawsUnwritten]
@[simp] theorem afterGR_baseReadable (s : State) (r : GReg) (q : GReg) : (s.afterGR r).baseReadable q = s.baseReadable q := by
  simp [State.baseReadable, State.grReadable, State.drawsUnwritten]
@[simp] theorem afterGR_ccReadable (s : State) (r : GReg) : (s.afterGR r).ccReadable = s.ccReadable := by
  simp [State.ccReadable, State.drawsUnwritten]
@[simp] theorem afterCC_vrReadable (s : State) (q : VReg) : (s.afterCC).vrReadable q = s.vrReadable q := by
  simp [State.vrReadable, State.drawsUnwritten]
@[simp] theorem afterCC_grReadable (s : State) (q : GReg) : (s.afterCC).grReadable q = s.grReadable q := by
  simp [State.grReadable, State.drawsUnwritten]
@[simp] theorem afterCC_baseReadable (s : State) (q : GReg) : (s.afterCC).baseReadable q = s.baseReadable q := by
  simp [State.baseReadable, State.grReadable, State.drawsUnwritten]
@[simp] theorem afterCC_ccReadable (s : State) : (s.afterCC).ccReadable = s.ccReadable := by
  simp [State.ccReadable, State.drawsUnwritten]
@[simp] theorem afterBase_vrReadable (s : State) (b : GReg) (q : VReg) : (s.afterBase b).vrReadable q = s.vrReadable q := by
  simp [State.vrReadable, State.drawsUnwritten]
@[simp] theorem afterBase_grReadable (s : State) (b : GReg) (q : GReg) : (s.afterBase b).grReadable q = s.grReadable q := by
  simp [State.grReadable, State.drawsUnwritten]
@[simp] theorem afterBase_baseReadable (s : State) (b : GReg) (q : GReg) : (s.afterBase b).baseReadable q = s.baseReadable q := by
  simp [State.baseReadable, State.grReadable, State.drawsUnwritten]
@[simp] theorem afterBase_ccReadable (s : State) (b : GReg) : (s.afterBase b).ccReadable = s.ccReadable := by
  simp [State.ccReadable, State.drawsUnwritten]

end Sys2Proof.Machine
end

