-- ==== Sys2Proof/Laws/Ops.lean ====
section
/-! SUPPORT. For each shared operation, one lemma that says once everything it can do: when it answers a next state or a fault,
and with which. The provers cite these instead of unfolding the operation. -/

namespace Sys2Proof.Machine

/-! ### Reads: the rest of the instruction runs on the value read, or the step is refused (R44) -/

theorem readVR_of_readable {s : State} {r : VReg} (k : V128 → State → Result) (h : s.vrReadable r = true) :
    readVR s r k = k (s.vrValue r) (s.afterVR r) := by
  simp [readVR, h]

theorem readVR_next {s t : State} {r : VReg} {k : V128 → State → Result} :
    readVR s r k = .next t ↔ s.vrReadable r = true ∧ k (s.vrValue r) (s.afterVR r) = .next t := by
  unfold readVR; split <;> simp_all

theorem readVR_fault {s : State} {r : VReg} {k : V128 → State → Result} {f : Fault} :
    readVR s r k = .fault f ↔ s.vrReadable r = true ∧ k (s.vrValue r) (s.afterVR r) = .fault f := by
  unfold readVR; split <;> simp_all

theorem readVR_refused {s : State} {r : VReg} {k : V128 → State → Result} {e : Refusal} :
    readVR s r k = .refused e ↔
      (s.vrReadable r = false ∧ e = .unwrittenRead) ∨ (s.vrReadable r = true ∧ k (s.vrValue r) (s.afterVR r) = .refused e) := by
  unfold readVR
  split <;> rename_i h <;> simp [h, eq_comm (a := Refusal.unwrittenRead)]

theorem readGR_of_readable {s : State} {r : GReg} (k : Word64 → State → Result) (h : s.grReadable r = true) :
    readGR s r k = k (s.grValue r) (s.afterGR r) := by
  simp [readGR, h]

theorem readGR_next {s t : State} {r : GReg} {k : Word64 → State → Result} :
    readGR s r k = .next t ↔ s.grReadable r = true ∧ k (s.grValue r) (s.afterGR r) = .next t := by
  unfold readGR; split <;> simp_all

theorem readGR_fault {s : State} {r : GReg} {k : Word64 → State → Result} {f : Fault} :
    readGR s r k = .fault f ↔ s.grReadable r = true ∧ k (s.grValue r) (s.afterGR r) = .fault f := by
  unfold readGR; split <;> simp_all

theorem readGR_refused {s : State} {r : GReg} {k : Word64 → State → Result} {e : Refusal} :
    readGR s r k = .refused e ↔
      (s.grReadable r = false ∧ e = .unwrittenRead) ∨ (s.grReadable r = true ∧ k (s.grValue r) (s.afterGR r) = .refused e) := by
  unfold readGR
  split <;> rename_i h <;> simp [h, eq_comm (a := Refusal.unwrittenRead)]

theorem readCC_of_readable {s : State} (k : CondCode → State → Result) (h : s.ccReadable = true) :
    readCC s k = k s.ccValue s.afterCC := by
  simp [readCC, h]

theorem readCC_next {s t : State} {k : CondCode → State → Result} :
    readCC s k = .next t ↔ s.ccReadable = true ∧ k s.ccValue s.afterCC = .next t := by
  unfold readCC; split <;> simp_all

theorem readCC_fault {s : State} {k : CondCode → State → Result} {f : Fault} :
    readCC s k = .fault f ↔ s.ccReadable = true ∧ k s.ccValue s.afterCC = .fault f := by
  unfold readCC; split <;> simp_all

theorem readCC_refused {s : State} {k : CondCode → State → Result} {e : Refusal} :
    readCC s k = .refused e ↔
      (s.ccReadable = false ∧ e = .unwrittenRead) ∨ (s.ccReadable = true ∧ k s.ccValue s.afterCC = .refused e) := by
  unfold readCC
  split <;> rename_i h <;> simp [h, eq_comm (a := Refusal.unwrittenRead)]

theorem readBase_of_readable {s : State} {b : GReg} (k : Word64 → State → Result) (h : s.baseReadable b = true) :
    readBase s b k = k (s.baseValue b) (s.afterBase b) := by
  simp [readBase, h]

theorem readBase_next {s t : State} {b : GReg} {k : Word64 → State → Result} :
    readBase s b k = .next t ↔ s.baseReadable b = true ∧ k (s.baseValue b) (s.afterBase b) = .next t := by
  unfold readBase; split <;> simp_all

theorem readBase_fault {s : State} {b : GReg} {k : Word64 → State → Result} {f : Fault} :
    readBase s b k = .fault f ↔ s.baseReadable b = true ∧ k (s.baseValue b) (s.afterBase b) = .fault f := by
  unfold readBase; split <;> simp_all

theorem readBase_refused {s : State} {b : GReg} {k : Word64 → State → Result} {e : Refusal} :
    readBase s b k = .refused e ↔
      (s.baseReadable b = false ∧ e = .unwrittenRead) ∨ (s.baseReadable b = true ∧ k (s.baseValue b) (s.afterBase b) = .refused e) := by
  unfold readBase
  split <;> rename_i h <;> simp [h, eq_comm (a := Refusal.unwrittenRead)]

/-! ### Faults -/

@[simp] theorem raiseSpecification_ne_next (s t : State) (m : Mnemonic) (f : FieldName) (v : Nat) :
    raiseSpecification s m f v ≠ .next t := by
  simp [raiseSpecification]

@[simp] theorem raiseSpecification_ne_refused (s : State) (m : Mnemonic) (f : FieldName) (v : Nat) (e : Refusal) :
    raiseSpecification s m f v ≠ .refused e := by
  simp [raiseSpecification]

@[simp] theorem raiseAccess_ne_next (s t : State) (m : Mnemonic) (a : Addr) (d : Direction) (c : Option Nat) :
    raiseAccess s m a d c ≠ .next t := by
  simp [raiseAccess]

@[simp] theorem raiseAccess_ne_refused (s : State) (m : Mnemonic) (a : Addr) (d : Direction) (c : Option Nat)
    (e : Refusal) : raiseAccess s m a d c ≠ .refused e := by
  simp [raiseAccess]

/-! ### The first refused byte of an access -/

theorem Mem.firstRefused_eq_none {m : Mem} {dir : Direction} {a : Addr} {n : Nat} :
    m.firstRefused dir a n = none ↔ ∀ j, j < n → m.refusal dir (byteAddr a j) = none := by
  simp [Mem.firstRefused, List.findSome?_eq_none_iff]

theorem Mem.firstRefused_eq_some {m : Mem} {dir : Direction} {a : Addr} {n p : Nat} {code : Option Nat} :
    m.firstRefused dir a n = some (p, code) ↔
      p < n ∧ m.refusal dir (byteAddr a p) = some code ∧ ∀ j, j < p → m.refusal dir (byteAddr a j) = none := by
  induction n with
  | zero => simp [Mem.firstRefused]
  | succ n ih =>
    have hstep : m.firstRefused dir a (n + 1) =
        (m.firstRefused dir a n).or ((m.refusal dir (byteAddr a n)).map fun c => (n, c)) := by
      simp [Mem.firstRefused, List.range_succ, List.findSome?_append]
    rw [hstep]
    cases hn : m.firstRefused dir a n with
    | none =>
      rw [Mem.firstRefused_eq_none] at hn
      simp only [Option.none_or, Option.map_eq_some_iff, Prod.mk.injEq]
      constructor
      · rintro ⟨c, hc, rfl, rfl⟩
        exact ⟨Nat.lt_succ_self _, hc, hn⟩
      · rintro ⟨h1, h2, -⟩
        rcases Nat.lt_succ_iff_lt_or_eq.1 h1 with h | rfl
        · simp [hn p h] at h2
        · exact ⟨code, h2, rfl, rfl⟩
    | some q =>
      rw [hn] at ih
      rw [Option.some_or, ih]
      constructor
      · rintro ⟨h1, h2, h3⟩; exact ⟨by omega, h2, h3⟩
      · rintro ⟨h1, h2, h3⟩
        refine ⟨?_, h2, h3⟩
        by_contra hge
        have hp : p = n := by omega
        subst hp
        have : m.firstRefused dir a p = none := Mem.firstRefused_eq_none.2 h3
        simp [this] at hn

/-! ### Memory access -/

theorem memRead_next {s t : State} {m : Mnemonic} {a : Addr} {n : Nat} {k : List Byte → Result} :
    memRead s m a n k = .next t ↔ s.mem.firstRefused .read a n = none ∧ k (s.mem.bytesAt a n) = .next t := by
  unfold memRead; split <;> simp_all

theorem memRead_fault {s : State} {m : Mnemonic} {a : Addr} {n : Nat} {k : List Byte → Result} {f : Fault} :
    memRead s m a n k = .fault f ↔
      (∃ p code, s.mem.firstRefused .read a n = some (p, code) ∧
        f = .access (byteAddr a p) .read code (opcodeRow m).len s) ∨
      (s.mem.firstRefused .read a n = none ∧ k (s.mem.bytesAt a n) = .fault f) := by
  unfold memRead
  split <;> rename_i h <;> simp [h, raiseAccess, eq_comm (b := f)]

theorem memRead_refused {s : State} {m : Mnemonic} {a : Addr} {n : Nat} {k : List Byte → Result} {e : Refusal} :
    memRead s m a n k = .refused e ↔
      s.mem.firstRefused .read a n = none ∧ k (s.mem.bytesAt a n) = .refused e := by
  unfold memRead; split <;> simp_all

theorem memWrite_next {s t : State} {m : Mnemonic} {a : Addr} {bs : List Byte} :
    memWrite s m a bs = .next t ↔
      s.mem.firstRefused .write a bs.length = none ∧ t = s.withMem (s.mem.writeBytes a bs) := by
  unfold memWrite
  split <;> rename_i h <;> simp [h, eq_comm (b := t)]

theorem memWrite_fault {s : State} {m : Mnemonic} {a : Addr} {bs : List Byte} {f : Fault} :
    memWrite s m a bs = .fault f ↔
      ∃ p code, s.mem.firstRefused .write a bs.length = some (p, code) ∧
        f = .access (byteAddr a p) .write code (opcodeRow m).len
          ((s.withMem (s.mem.writeDrawn a s.draws (bs.take p))).drawnTimes p) := by
  unfold memWrite
  split <;> rename_i h <;> simp [h, raiseAccess, eq_comm (b := f)]

@[simp] theorem memWrite_ne_refused {s : State} {m : Mnemonic} {a : Addr} {bs : List Byte} {e : Refusal} :
    memWrite s m a bs ≠ .refused e := by
  unfold memWrite; split <;> simp

theorem falseAccess_next {s t : State} {m : Mnemonic} {dir : Direction} {a : Addr} {n : Nat}
    (h : falseAccess s m dir a n = .next t) : t = s ∨ t = s.drawn := by
  unfold falseAccess at h
  split at h
  · exact .inl (by simpa using h.symm)
  · split at h
    · exact .inl (by simpa using h.symm)
    · split at h
      · simp at h
      · exact .inr (by simpa using h.symm)

theorem falseAccess_fault {s : State} {m : Mnemonic} {dir : Direction} {a : Addr} {n : Nat} {f : Fault} :
    falseAccess s m dir a n = .fault f ↔
      s.params.locFalseAccess = .may ∧ Config.locFalseFaults s.draws = true ∧
      ∃ p code, s.mem.firstRefused dir a n = some (p, code) ∧
        f = .access (byteAddr a p) dir code (opcodeRow m).len s.drawn := by
  unfold falseAccess
  split <;> rename_i hp
  · simp [hp]
  · split <;> rename_i hr
    · simp [hp, hr]
    · split <;> rename_i hd <;> simp [hp, hr, hd, raiseAccess, eq_comm (b := f)]

@[simp] theorem falseAccess_ne_refused {s : State} {m : Mnemonic} {dir : Direction} {a : Addr} {n : Nat} {e : Refusal} :
    falseAccess s m dir a n ≠ .refused e := by
  unfold falseAccess
  split
  · simp
  · split
    · simp
    · split <;> simp

/-! ### The step around an instruction -/

theorem finishStep_next {len : Nat} {rest : List Byte} {o : Result} {t : State} :
    finishStep len rest o = .next t ↔ ∃ s, o = .next s ∧ t = s.advance len rest := by
  cases o <;> simp [finishStep, eq_comm (b := t)]

theorem finishStep_fault {len : Nat} {rest : List Byte} {o : Result} {f : Fault} :
    finishStep len rest o = .fault f ↔ o = .fault f := by
  cases o <;> simp [finishStep]

/-- Everything a step that completes has done. -/
theorem step_next {s t : State} :
    step s = .next t ↔
      ∃ i rest u, decode s.stream = .instr i rest ∧ exec i s = .next u ∧ t = u.advance i.length rest := by
  unfold step
  split
  · rename_i i rest h
    rw [finishStep_next]
    constructor
    · rintro ⟨u, hu, rfl⟩; exact ⟨i, rest, u, h, hu, rfl⟩
    · rintro ⟨i', rest', u, h', hu, rfl⟩
      rw [h] at h'; cases h'
      exact ⟨u, hu, rfl⟩
  all_goals simp_all

/-- Everything a step that faults has done. -/
theorem step_fault {s : State} {f : Fault} :
    step s = .fault f ↔ ∃ i rest, decode s.stream = .instr i rest ∧ exec i s = .fault f := by
  unfold step
  split
  · rename_i i rest h
    rw [finishStep_fault]
    constructor
    · intro hf; exact ⟨i, rest, h, hf⟩
    · rintro ⟨i', rest', h', hf⟩
      rw [h] at h'; cases h'
      exact hf
  all_goals simp_all

end Sys2Proof.Machine
end

