-- ==== Sys2Proof/Laws/PerInstr.lean ====
section
/-! SUPPORT. The per-instruction family `EncodeLength`: one lemma for each constructor of `Instr`. -/

namespace Sys2Proof.Laws

/-- Encoding an instruction gives as many bytes as its length, 4 or 6 (30_encoding.md R91). -/
def EncodeLength.Statement (i : Instr) : Prop := (encode i).length = i.length ∧ (i.length = 4 ∨ i.length = 6)

/-- The bytes of a word are as many as asked for (R90). -/
theorem length_bytesOfWord (n : Nat) (w : BitVec 48) : (bytesOfWord n w).length = n := by simp [bytesOfWord]

/-- The family's statement follows from the length alone. -/
theorem EncodeLength.of_length {i : Instr} (h : i.length = 4 ∨ i.length = 6) : EncodeLength.Statement i :=
  ⟨length_bytesOfWord _ _, h⟩

theorem EncodeLength.va (v1 v2 v3 : VReg) (m4 : MField) :
    EncodeLength.Statement (.va v1 v2 v3 m4) :=
  EncodeLength.of_length (.inr rfl)
theorem EncodeLength.vs (v1 v2 v3 : VReg) (m4 : MField) :
    EncodeLength.Statement (.vs v1 v2 v3 m4) :=
  EncodeLength.of_length (.inr rfl)
theorem EncodeLength.vn (v1 v2 v3 : VReg) :
    EncodeLength.Statement (.vn v1 v2 v3) :=
  EncodeLength.of_length (.inr rfl)
theorem EncodeLength.vnc (v1 v2 v3 : VReg) :
    EncodeLength.Statement (.vnc v1 v2 v3) :=
  EncodeLength.of_length (.inr rfl)
theorem EncodeLength.vo (v1 v2 v3 : VReg) :
    EncodeLength.Statement (.vo v1 v2 v3) :=
  EncodeLength.of_length (.inr rfl)
theorem EncodeLength.vno (v1 v2 v3 : VReg) :
    EncodeLength.Statement (.vno v1 v2 v3) :=
  EncodeLength.of_length (.inr rfl)
theorem EncodeLength.vx (v1 v2 v3 : VReg) :
    EncodeLength.Statement (.vx v1 v2 v3) :=
  EncodeLength.of_length (.inr rfl)
theorem EncodeLength.vavg (v1 v2 v3 : VReg) (m4 : MField) :
    EncodeLength.Statement (.vavg v1 v2 v3 m4) :=
  EncodeLength.of_length (.inr rfl)
theorem EncodeLength.vavgl (v1 v2 v3 : VReg) (m4 : MField) :
    EncodeLength.Statement (.vavgl v1 v2 v3 m4) :=
  EncodeLength.of_length (.inr rfl)
theorem EncodeLength.vmx (v1 v2 v3 : VReg) (m4 : MField) :
    EncodeLength.Statement (.vmx v1 v2 v3 m4) :=
  EncodeLength.of_length (.inr rfl)
theorem EncodeLength.vmxl (v1 v2 v3 : VReg) (m4 : MField) :
    EncodeLength.Statement (.vmxl v1 v2 v3 m4) :=
  EncodeLength.of_length (.inr rfl)
theorem EncodeLength.vmn (v1 v2 v3 : VReg) (m4 : MField) :
    EncodeLength.Statement (.vmn v1 v2 v3 m4) :=
  EncodeLength.of_length (.inr rfl)
theorem EncodeLength.vmnl (v1 v2 v3 : VReg) (m4 : MField) :
    EncodeLength.Statement (.vmnl v1 v2 v3 m4) :=
  EncodeLength.of_length (.inr rfl)
theorem EncodeLength.vml (v1 v2 v3 : VReg) (m4 : MField) :
    EncodeLength.Statement (.vml v1 v2 v3 m4) :=
  EncodeLength.of_length (.inr rfl)
theorem EncodeLength.vmh (v1 v2 v3 : VReg) (m4 : MField) :
    EncodeLength.Statement (.vmh v1 v2 v3 m4) :=
  EncodeLength.of_length (.inr rfl)
theorem EncodeLength.vmlh (v1 v2 v3 : VReg) (m4 : MField) :
    EncodeLength.Statement (.vmlh v1 v2 v3 m4) :=
  EncodeLength.of_length (.inr rfl)
theorem EncodeLength.vme (v1 v2 v3 : VReg) (m4 : MField) :
    EncodeLength.Statement (.vme v1 v2 v3 m4) :=
  EncodeLength.of_length (.inr rfl)
theorem EncodeLength.vmle (v1 v2 v3 : VReg) (m4 : MField) :
    EncodeLength.Statement (.vmle v1 v2 v3 m4) :=
  EncodeLength.of_length (.inr rfl)
theorem EncodeLength.vmo (v1 v2 v3 : VReg) (m4 : MField) :
    EncodeLength.Statement (.vmo v1 v2 v3 m4) :=
  EncodeLength.of_length (.inr rfl)
theorem EncodeLength.vmlo (v1 v2 v3 : VReg) (m4 : MField) :
    EncodeLength.Statement (.vmlo v1 v2 v3 m4) :=
  EncodeLength.of_length (.inr rfl)
theorem EncodeLength.vlc (v1 v2 : VReg) (m3 : MField) :
    EncodeLength.Statement (.vlc v1 v2 m3) :=
  EncodeLength.of_length (.inr rfl)
theorem EncodeLength.vlp (v1 v2 : VReg) (m3 : MField) :
    EncodeLength.Statement (.vlp v1 v2 m3) :=
  EncodeLength.of_length (.inr rfl)
theorem EncodeLength.vpopct (v1 v2 : VReg) (m3 : MField) :
    EncodeLength.Statement (.vpopct v1 v2 m3) :=
  EncodeLength.of_length (.inr rfl)
theorem EncodeLength.vclz (v1 v2 : VReg) (m3 : MField) :
    EncodeLength.Statement (.vclz v1 v2 m3) :=
  EncodeLength.of_length (.inr rfl)
theorem EncodeLength.vctz (v1 v2 : VReg) (m3 : MField) :
    EncodeLength.Statement (.vctz v1 v2 m3) :=
  EncodeLength.of_length (.inr rfl)
theorem EncodeLength.vpk (v1 v2 v3 : VReg) (m4 : MField) :
    EncodeLength.Statement (.vpk v1 v2 v3 m4) :=
  EncodeLength.of_length (.inr rfl)
theorem EncodeLength.vpks (v1 v2 v3 : VReg) (m4 m5 : MField) :
    EncodeLength.Statement (.vpks v1 v2 v3 m4 m5) :=
  EncodeLength.of_length (.inr rfl)
theorem EncodeLength.vpkls (v1 v2 v3 : VReg) (m4 m5 : MField) :
    EncodeLength.Statement (.vpkls v1 v2 v3 m4 m5) :=
  EncodeLength.of_length (.inr rfl)
theorem EncodeLength.vuph (v1 v2 : VReg) (m3 : MField) :
    EncodeLength.Statement (.vuph v1 v2 m3) :=
  EncodeLength.of_length (.inr rfl)
theorem EncodeLength.vupl (v1 v2 : VReg) (m3 : MField) :
    EncodeLength.Statement (.vupl v1 v2 m3) :=
  EncodeLength.of_length (.inr rfl)
theorem EncodeLength.vuplh (v1 v2 : VReg) (m3 : MField) :
    EncodeLength.Statement (.vuplh v1 v2 m3) :=
  EncodeLength.of_length (.inr rfl)
theorem EncodeLength.vupll (v1 v2 : VReg) (m3 : MField) :
    EncodeLength.Statement (.vupll v1 v2 m3) :=
  EncodeLength.of_length (.inr rfl)
theorem EncodeLength.vperm (v1 v2 v3 v4 : VReg) :
    EncodeLength.Statement (.vperm v1 v2 v3 v4) :=
  EncodeLength.of_length (.inr rfl)
theorem EncodeLength.vsel (v1 v2 v3 v4 : VReg) :
    EncodeLength.Statement (.vsel v1 v2 v3 v4) :=
  EncodeLength.of_length (.inr rfl)
theorem EncodeLength.vmrh (v1 v2 v3 : VReg) (m4 : MField) :
    EncodeLength.Statement (.vmrh v1 v2 v3 m4) :=
  EncodeLength.of_length (.inr rfl)
theorem EncodeLength.vmrl (v1 v2 v3 : VReg) (m4 : MField) :
    EncodeLength.Statement (.vmrl v1 v2 v3 m4) :=
  EncodeLength.of_length (.inr rfl)
theorem EncodeLength.vrep (v1 v3 : VReg) (i2 : BitVec 16) (m4 : MField) :
    EncodeLength.Statement (.vrep v1 v3 i2 m4) :=
  EncodeLength.of_length (.inr rfl)
theorem EncodeLength.vrepi (v1 : VReg) (i2 : BitVec 16) (m3 : MField) :
    EncodeLength.Statement (.vrepi v1 i2 m3) :=
  EncodeLength.of_length (.inr rfl)
theorem EncodeLength.vpdi (v1 v2 v3 : VReg) (m4 : MField) :
    EncodeLength.Statement (.vpdi v1 v2 v3 m4) :=
  EncodeLength.of_length (.inr rfl)
theorem EncodeLength.vgef (v1 : VReg) (d2 : BitVec 12) (v2 : VReg) (b2 : GReg) (m3 : MField) :
    EncodeLength.Statement (.vgef v1 d2 v2 b2 m3) :=
  EncodeLength.of_length (.inr rfl)
theorem EncodeLength.vgeg (v1 : VReg) (d2 : BitVec 12) (v2 : VReg) (b2 : GReg) (m3 : MField) :
    EncodeLength.Statement (.vgeg v1 d2 v2 b2 m3) :=
  EncodeLength.of_length (.inr rfl)
theorem EncodeLength.vscef (v1 : VReg) (d2 : BitVec 12) (v2 : VReg) (b2 : GReg) (m3 : MField) :
    EncodeLength.Statement (.vscef v1 d2 v2 b2 m3) :=
  EncodeLength.of_length (.inr rfl)
theorem EncodeLength.vsceg (v1 : VReg) (d2 : BitVec 12) (v2 : VReg) (b2 : GReg) (m3 : MField) :
    EncodeLength.Statement (.vsceg v1 d2 v2 b2 m3) :=
  EncodeLength.of_length (.inr rfl)
theorem EncodeLength.vll (v1 : VReg) (r3 : GReg) (d2 : BitVec 12) (b2 : GReg) :
    EncodeLength.Statement (.vll v1 r3 d2 b2) :=
  EncodeLength.of_length (.inr rfl)
theorem EncodeLength.vstl (v1 : VReg) (r3 : GReg) (d2 : BitVec 12) (b2 : GReg) :
    EncodeLength.Statement (.vstl v1 r3 d2 b2) :=
  EncodeLength.of_length (.inr rfl)
theorem EncodeLength.lcbb (r1 : GReg) (d2 : BitVec 12) (x2 b2 : GReg) (m3 : MField) :
    EncodeLength.Statement (.lcbb r1 d2 x2 b2 m3) :=
  EncodeLength.of_length (.inr rfl)
theorem EncodeLength.vch (v1 v2 v3 : VReg) (m4 m5 : MField) :
    EncodeLength.Statement (.vch v1 v2 v3 m4 m5) :=
  EncodeLength.of_length (.inr rfl)
theorem EncodeLength.vchl (v1 v2 v3 : VReg) (m4 m5 : MField) :
    EncodeLength.Statement (.vchl v1 v2 v3 m4 m5) :=
  EncodeLength.of_length (.inr rfl)
theorem EncodeLength.locr (r1 r2 : GReg) (m3 : MField) :
    EncodeLength.Statement (.locr r1 r2 m3) :=
  EncodeLength.of_length (.inl rfl)
theorem EncodeLength.locgr (r1 r2 : GReg) (m3 : MField) :
    EncodeLength.Statement (.locgr r1 r2 m3) :=
  EncodeLength.of_length (.inl rfl)
theorem EncodeLength.loc (r1 : GReg) (d2 : BitVec 20) (b2 : GReg) (m3 : MField) :
    EncodeLength.Statement (.loc r1 d2 b2 m3) :=
  EncodeLength.of_length (.inr rfl)
theorem EncodeLength.locg (r1 : GReg) (d2 : BitVec 20) (b2 : GReg) (m3 : MField) :
    EncodeLength.Statement (.locg r1 d2 b2 m3) :=
  EncodeLength.of_length (.inr rfl)
theorem EncodeLength.stoc (r1 : GReg) (d2 : BitVec 20) (b2 : GReg) (m3 : MField) :
    EncodeLength.Statement (.stoc r1 d2 b2 m3) :=
  EncodeLength.of_length (.inr rfl)
theorem EncodeLength.stocg (r1 : GReg) (d2 : BitVec 20) (b2 : GReg) (m3 : MField) :
    EncodeLength.Statement (.stocg r1 d2 b2 m3) :=
  EncodeLength.of_length (.inr rfl)

end Sys2Proof.Laws
end

