-- ==== Sys2Proof/Tests/Slice0.lean ====
section
/-! SUPPORT. Tests. Expected results are those of 95_test_vectors.md (derived there from the rules, not run on hardware); each
test names its section and rule. `test_decode_…` reads a word written out from the format tables of 30_encoding.md, `test_…`
runs one instruction, and `witness_…` shows a state and operands that meet all hypotheses of the obligation it names, at the
boundary values of its clauses. -/

namespace Sys2Proof.Tests

open Sys2Proof Sys2Proof.Machine

set_option maxRecDepth 10000

/-! ### Reading an outcome -/

/-- A vector register of the next state. -/
def vrOf (o : Result) (r : VReg) : Option V128 :=
  match o with
  | .next t => some (t.vrAt r)
  | _ => none

/-- A general register of the next state. -/
def grOf (o : Result) (r : GReg) : Option Word64 :=
  match o with
  | .next t => some (t.grAt r)
  | _ => none

/-- The CC of the next state. -/
def ccOf (o : Result) : Option CondCode :=
  match o with
  | .next t => some t.cc
  | _ => none

/-- `n` bytes of the next state's memory. -/
def bytesOf (o : Result) (a : Addr) (n : Nat) : Option (List Byte) :=
  match o with
  | .next t => some (t.mem.bytesAt a n)
  | _ => none

/-- The info of a SPECIFICATION fault and the length. -/
def specificationOf (o : Result) : Option (Mnemonic × FieldName × Nat × Nat) :=
  match o with
  | .fault (.specification m f v n _) => some (m, f, v, n)
  | _ => none

/-- The info of an ACCESS fault and the length. -/
def accessOf (o : Result) : Option (Addr × Direction × Option Nat × Nat) :=
  match o with
  | .fault (.access a d c n _) => some (a, d, c, n)
  | _ => none

/-- The refusal of an outcome. -/
def refusalOf (o : Result) : Option Refusal :=
  match o with
  | .refused e => some e
  | _ => none

/-! ### Small states -/

/-- The reset state with values in V2, V3 and V4. -/
def given (v2 v3 v4 : V128) : State := ((State.reset.writeVR 2 v2).writeVR 3 v3).writeVR 4 v4

/-- `s` with bytes in memory. -/
def withBytes (s : State) (a : Addr) (bs : List Byte) : State := s.withMem (s.mem.writeBytes a bs)

/-- `s` with all accesses to a range refused, with code 4 attached. -/
def refusing (s : State) (first size : Nat) : State :=
  s.withMem { s.mem with refusals := [{ first := first, size := size, reads := true, writes := true, code := some 4 }] }

/-- `s` under other parameters. -/
def under (s : State) (p : Config.Params) : State := { s with params := p }

/-- The parameters of z/Architecture, where R7 gives two values, with unwritten reads drawn. -/
def otherParams : Config.Params := ⟨.zero, .unsigned, .halfUp, .draw, .never⟩

/-- The operand A of 95_test_vectors.md. -/
def valA : V128 := 0x000102030405060708090A0B0C0D0E0F#128
/-- The operand Bv of 95_test_vectors.md. -/
def valBv : V128 := 0x101112131415161718191A1B1C1D1E1F#128
/-- The operand A1 of 95_test_vectors.md. -/
def valA1 : V128 := 0x807FFF0001FE02FD7FFF800040C010F0#128
/-- The operand B1 of 95_test_vectors.md. -/
def valB1 : V128 := 0x800101FFFF02FE03817F800040C0F010#128
/-- The operand U of 95_test_vectors.md. -/
def valU : V128 := 0x000180FF000001000000000000000001#128
/-- The operand PA of 95_test_vectors.md. -/
def valPA : V128 := 0x012CFFFB0080FF7F007FFF800000FFFF#128
/-- The operand PB of 95_test_vectors.md. -/
def valPB : V128 := 0x00FF01007FFF80000001FFFE00C8FF38#128
/-- 2.1, R141. -/
theorem test_va :
    vrOf (exec (.va 1 2 3 0) (given valA1 valB1 0#128)) 1 =
      some 0x008000FF00000000007E000080800000#128 := by decide
/-- 2.1, R141. -/
theorem test_va_quadword :
    vrOf (exec (.va 1 2 3 4) (given valA1 valB1 0#128)) 1 =
      some 0x0081010001010101017F000081810100#128 := by decide
/-- 2.1, R142. -/
theorem test_vs :
    vrOf (exec (.vs 1 2 3 0) (given valA1 valB1 0#128)) 1 =
      some 0x007EFE0102FC04FAFE800000000020E0#128 := by decide
/-- 2.1, R142. -/
theorem test_vs_quadword :
    vrOf (exec (.vs 1 2 3 4) (given valA1 valB1 0#128)) 1 =
      some 0x007EFD0002FB04F9FE7FFFFFFFFF20E0#128 := by decide
/-- 2.1, R143. -/
theorem test_vn :
    vrOf (exec (.vn 1 2 3) (given valA1 valB1 0#128)) 1 =
      some 0x8001010001020201017F800040C01010#128 := by decide
/-- 2.1, R144. -/
theorem test_vnc :
    vrOf (exec (.vnc 1 2 3) (given valA1 valB1 0#128)) 1 =
      some 0x007EFE0000FC00FC7E800000000000E0#128 := by decide
/-- 2.1, R145. -/
theorem test_vo :
    vrOf (exec (.vo 1 2 3) (given valA1 valB1 0#128)) 1 =
      some 0x807FFFFFFFFEFEFFFFFF800040C0F0F0#128 := by decide
/-- 2.1, R146. -/
theorem test_vno :
    vrOf (exec (.vno 1 2 3) (given valA1 valB1 0#128)) 1 =
      some 0x7F8000000001010000007FFFBF3F0F0F#128 := by decide
/-- 2.1, R147. -/
theorem test_vx :
    vrOf (exec (.vx 1 2 3) (given valA1 valB1 0#128)) 1 =
      some 0x007EFEFFFEFCFCFEFE8000000000E0E0#128 := by decide
/-- 2.1, R149, FLOOR. -/
theorem test_vavg :
    vrOf (exec (.vavg 1 2 3 0) (given valA1 valB1 0#128)) 1 =
      some 0x804000FF00000000003F800040C00000#128 := by decide
/-- 2.1, R150, FLOOR. -/
theorem test_vavgl :
    vrOf (exec (.vavgl 1 2 3 0) (given valA1 valB1 0#128)) 1 =
      some 0x8040807F8080808080BF800040C08080#128 := by decide
/-- 2.1, R151. -/
theorem test_vmx :
    vrOf (exec (.vmx 1 2 3 0) (given valA1 valB1 0#128)) 1 =
      some 0x807F0100010202037F7F800040C01010#128 := by decide
/-- 2.1, R152. -/
theorem test_vmxl :
    vrOf (exec (.vmxl 1 2 3 0) (given valA1 valB1 0#128)) 1 =
      some 0x807FFFFFFFFEFEFD81FF800040C0F0F0#128 := by decide
/-- 2.1, R153. -/
theorem test_vmn :
    vrOf (exec (.vmn 1 2 3 0) (given valA1 valB1 0#128)) 1 =
      some 0x8001FFFFFFFEFEFD81FF800040C0F0F0#128 := by decide
/-- 2.1, R154. -/
theorem test_vmnl :
    vrOf (exec (.vmnl 1 2 3 0) (given valA1 valB1 0#128)) 1 =
      some 0x80010100010202037F7F800040C01010#128 := by decide
/-- 2.1, R155. -/
theorem test_vml :
    vrOf (exec (.vml 1 2 3 1) (given valA1 valB1 0#128)) 1 =
      some 0x007F010005FC0EF7FE81000090000F00#128 := by decide
/-- 2.1, R156. -/
theorem test_vmh :
    vrOf (exec (.vmh 1 2 3 0) (given valA1 valB1 0#128)) 1 =
      some 0x4000FF00FFFFFFFFC0FF40001010FFFF#128 := by decide
/-- 2.1, R156. -/
theorem test_vmh_word :
    vrOf (exec (.vmh 1 2 3 2) (given valA1 valB1 0#128)) 1 =
      some 0x3FBF8001FFFE07F3C0BFFF401060D100#128 := by decide
/-- 2.1, R157. -/
theorem test_vmlh :
    vrOf (exec (.vmlh 1 2 3 0) (given valA1 valB1 0#128)) 1 =
      some 0x40000000000101023F7E400010900F0F#128 := by decide
/-- 2.1, R158. -/
theorem test_vme :
    vrOf (exec (.vme 1 2 3 0) (given valA1 valB1 0#128)) 1 =
      some 0x4000FFFFFFFFFFFCC0FF40001000FF00#128 := by decide
/-- 2.1, R158. -/
theorem test_vme_word :
    vrOf (exec (.vme 1 2 3 2) (given valA1 valB1 0#128)) 1 =
      some 0x3FBF80017E7E0100C0BFFF4040000000#128 := by decide
/-- 2.1, R159. -/
theorem test_vmle :
    vrOf (exec (.vmle 1 2 3 0) (given valA1 valB1 0#128)) 1 =
      some 0x400000FF00FF01FC3FFF400010000F00#128 := by decide
/-- 2.1, R160. -/
theorem test_vmo :
    vrOf (exec (.vmo 1 2 3 0) (given valA1 valB1 0#128)) 1 =
      some 0x007F0000FFFCFFF7FF8100001000FF00#128 := by decide
/-- 2.1, R161. -/
theorem test_vmlo :
    vrOf (exec (.vmlo 1 2 3 0) (given valA1 valB1 0#128)) 1 =
      some 0x007F000001FC02F77E81000090000F00#128 := by decide
/-- 2.1, R161. -/
theorem test_vmlo_word :
    vrOf (exec (.vmlo 1 2 3 2) (given valA1 valB1 0#128)) 1 =
      some 0x01FC0AF015EB0EF71060D100CFE20F00#128 := by decide
/-- 2.2, R201. -/
theorem test_vlc :
    vrOf (exec (.vlc 1 2 0) (given valA1 0#128 0#128)) 1 =
      some 0x80810100FF02FE0381018000C040F010#128 := by decide
/-- 2.2, R201. -/
theorem test_vlc_word :
    vrOf (exec (.vlc 1 2 2) (given valA1 0#128 0#128)) 1 =
      some 0x7F800100FE01FD0380008000BF3FEF10#128 := by decide
/-- 2.2, R202. -/
theorem test_vlp :
    vrOf (exec (.vlp 1 2 0) (given valA1 0#128 0#128)) 1 =
      some 0x807F0100010202037F01800040401010#128 := by decide
/-- 2.2, R202. -/
theorem test_vlp_doubleword :
    vrOf (exec (.vlp 1 2 3) (given valA1 0#128 0#128)) 1 =
      some 0x7F8000FFFE01FD037FFF800040C010F0#128 := by decide
/-- 2.2, R203. -/
theorem test_vpopct :
    vrOf (exec (.vpopct 1 2 0) (given valA1 0#128 0#128)) 1 =
      some 0x01070800010701070708010001020104#128 := by decide
/-- 2.2, R204. -/
theorem test_vclz :
    vrOf (exec (.vclz 1 2 0) (given valU 0#128 0#128)) 1 =
      some 0x08070000080807080808080808080807#128 := by decide
/-- 2.2, R204. -/
theorem test_vclz_doubleword :
    vrOf (exec (.vclz 1 2 3) (given valU 0#128 0#128)) 1 =
      some 0x000000000000000F000000000000003F#128 := by decide
/-- 2.2, R205. -/
theorem test_vctz :
    vrOf (exec (.vctz 1 2 0) (given valU 0#128 0#128)) 1 =
      some 0x08000700080800080808080808080800#128 := by decide
/-- 2.2, R205. -/
theorem test_vctz_word :
    vrOf (exec (.vctz 1 2 2) (given valA1 0#128 0#128)) 1 =
      some 0x00000008000000000000000F00000004#128 := by decide
/-- 2.3, R230. -/
theorem test_vpk :
    vrOf (exec (.vpk 1 2 3 1) (given valPA valPB 0#128)) 1 =
      some 0x2CFB807F7F8000FFFF00FF0001FEC838#128 := by decide
/-- 2.3, R230. -/
theorem test_vpk_doubleword :
    vrOf (exec (.vpk 1 2 3 3) (given valPA valPB 0#128)) 1 =
      some 0x0080FF7F0000FFFF7FFF800000C8FF38#128 := by decide
/-- 2.3, R231. -/
theorem test_vpks :
    vrOf (exec (.vpks 1 2 3 1 1) (given valPA valPB 0#128)) 1 =
      some 0x7FFB7F807F8000FF7F7F7F8001FE7F80#128 := by decide
/-- 2.3, R232, SIGNED. -/
theorem test_vpkls :
    vrOf (exec (.vpkls 1 2 3 1 1) (given valPA valPB 0#128)) 1 =
      some 0xFF0080007F000000FFFFFF000100C800#128 := by decide
/-- 2.3, R234. -/
theorem test_vuph :
    vrOf (exec (.vuph 1 2 0) (given valU 0#128 0#128)) 1 =
      some 0x00000001FF80FFFF0000000000010000#128 := by decide
/-- 2.3, R234. -/
theorem test_vuph_word :
    vrOf (exec (.vuph 1 2 2) (given valA1 0#128 0#128)) 1 =
      some 0xFFFFFFFF807FFF000000000001FE02FD#128 := by decide
/-- 2.3, R235. -/
theorem test_vupl :
    vrOf (exec (.vupl 1 2 0) (given valA1 0#128 0#128)) 1 =
      some 0x007FFFFFFF8000000040FFC00010FFF0#128 := by decide
/-- 2.3, R236. -/
theorem test_vuplh :
    vrOf (exec (.vuplh 1 2 0) (given valA1 0#128 0#128)) 1 =
      some 0x0080007F00FF0000000100FE000200FD#128 := by decide
/-- 2.3, R237. -/
theorem test_vupll :
    vrOf (exec (.vupll 1 2 1) (given valA1 0#128 0#128)) 1 =
      some 0x00007FFF00008000000040C0000010F0#128 := by decide
/-- 2.4, R260, selectors of 32 or more. -/
theorem test_vperm :
    vrOf (exec (.vperm 1 2 3 4) (given valA valBv 0x1F0010013F20110F9008FF7F18071727#128)) 1 =
      some 0x1F0010011F00110F10081F1F18071707#128 := by decide
/-- 2.4, R261. -/
theorem test_vsel :
    vrOf (exec (.vsel 1 2 3 4) (given valA valBv 0xFF00FF00F0F0F0F0FFFFFFFFFFFFFFFF#128)) 1 =
      some 0x001102130405060708090A0B0C0D0E0F#128 := by decide
/-- 2.4, R262. -/
theorem test_vmrh :
    vrOf (exec (.vmrh 1 2 3 1) (given valA valBv 0#128)) 1 =
      some 0x00011011020312130405141506071617#128 := by decide
/-- 2.4, R263. -/
theorem test_vmrl :
    vrOf (exec (.vmrl 1 2 3 0) (given valA valBv 0#128)) 1 =
      some 0x081809190A1A0B1B0C1C0D1D0E1E0F1F#128 := by decide
/-- 2.4, R263. -/
theorem test_vmrl_word :
    vrOf (exec (.vmrl 1 2 3 2) (given valA valBv 0#128)) 1 =
      some 0x08090A0B18191A1B0C0D0E0F1C1D1E1F#128 := by decide
/-- 2.4, R264. -/
theorem test_vrep :
    vrOf (exec (.vrep 1 2 7 1) (given valA 0#128 0#128)) 1 =
      some 0x0E0F0E0F0E0F0E0F0E0F0E0F0E0F0E0F#128 := by decide
/-- 2.4, R265. -/
theorem test_vrepi :
    vrOf (exec (.vrepi 1 300 0) (given 0#128 0#128 0#128)) 1 =
      some 0x2C2C2C2C2C2C2C2C2C2C2C2C2C2C2C2C#128 := by decide
/-- 2.4, R265, I2 = -32768. -/
theorem test_vrepi_doubleword :
    vrOf (exec (.vrepi 1 0x8000 3) (given 0#128 0#128 0#128)) 1 =
      some 0xFFFFFFFFFFFF8000FFFFFFFFFFFF8000#128 := by decide
/-- program P4 step 5, R266. -/
theorem test_vpdi :
    vrOf (exec (.vpdi 1 2 3 4) (given 0x000000000000000004030201EFBEADDE#128 0xDEADBEEF010203040000000000000000#128 0#128)) 1 =
      some 0x04030201EFBEADDEDEADBEEF01020304#128 := by decide
/-- 2.6, R320. -/
theorem test_vch :
    vrOf (exec (.vch 1 2 3 0 1) (given valA1 valB1 0#128)) 1 =
      some 0x00FF00FFFF00FF00FF0000000000FF00#128 := by decide
/-- 2.6, R321. -/
theorem test_vchl :
    vrOf (exec (.vchl 1 2 3 1 1) (given valA1 valB1 0#128)) 1 =
      some 0xFFFFFFFF000000000000000000000000#128 := by decide

/-! ### The second value of the two-valued parameters (R7) -/

/-- 2.1, R149, HALF_UP. -/
theorem test_vavg_half_up :
    vrOf (exec (.vavg 1 2 3 0) (under (given valA1 valB1 0) otherParams)) 1 =
      some 0x8040000000000000003F800040C00000#128 := by decide
/-- 2.1, R150, HALF_UP. -/
theorem test_vavgl_half_up :
    vrOf (exec (.vavgl 1 2 3 0) (under (given valA1 valB1 0) otherParams)) 1 =
      some 0x804080808080808080BF800040C08080#128 := by decide
/-- 2.3, R232, UNSIGNED. -/
theorem test_vpkls_unsigned :
    vrOf (exec (.vpkls 1 2 3 1 1) (under (given valPA valPB 0) otherParams)) 1 =
      some 0xFFFF80FF7FFF00FFFFFFFFFF01FFC8FF#128 := by decide

/-! ### The condition code -/

/-- 2.3, R233: some saturate. -/
theorem test_vpks_cc : ccOf (exec (.vpks 1 2 3 1 1) (given valPA valPB 0)) = some 1 := by decide
/-- 2.6, R320: every doubleword compares high. -/
theorem test_vch_cc : ccOf (exec (.vch 1 2 3 3 1) (given valB1 valA1 0)) = some 3 ∧
    ccOf (exec (.vch 1 2 3 3 1) (given valA1 valB1 0)) = some 0 := by decide
/-- 2.6, R321: some compare high. -/
theorem test_vchl_cc : ccOf (exec (.vchl 1 2 3 3 1) (given valA1 valB1 0)) = some 1 := by decide

/-! ### 45_element_memory.md -/

/-- V1 = 0, V2 = words 10, 20, 30, 40 and GR1 = 0x3000, of 2.5 and program P4. -/
def indexed : State :=
  ((State.reset.writeVR 1 0).writeVR 2 0x00000010000000200000003000000040#128).writeGR 1 0x3000

/-- 2.5, R291. -/
theorem test_vgef :
    vrOf (exec (.vgef 1 0 2 1 1) (withBytes indexed 0x3020 [1, 2, 3, 4])) 1 =
      some 0x00000000010203040000000000000000#128 := by decide
/-- 2.5, R292. -/
theorem test_vgeg :
    vrOf (exec (.vgeg 1 0 2 1 1) (withBytes (((State.reset.writeVR 1 0x11111111111111112222222222222222#128).writeVR 2
      8#128).writeGR 1 0x4000) 0x4008 [0xAA, 0xBB, 0xCC, 0xDD, 0xEE, 0xFF, 0x00, 0x11])) 1 =
      some 0x1111111111111111AABBCCDDEEFF0011#128 := by decide
/-- 2.5, R290, R292: the address wraps to 8. -/
theorem test_vgeg_wraps :
    vrOf (exec (.vgeg 1 0 2 1 1) (withBytes (((State.reset.writeVR 1 0).writeVR 2 0x10#128).writeGR 1
      0xFFFFFFFFFFFFFFF8) 8 [1, 2, 3, 4, 5, 6, 7, 8])) 1 = some 0x0102030405060708#128 := by decide
/-- 2.5, R293: V3's word 3 to 0x3040, program P4 step 4. -/
theorem test_vscef :
    bytesOf (exec (.vscef 3 0 2 1 3) (indexed.writeVR 3 0x000000000000000004030201EFBEADDE#128)) 0x303F 6 =
      some [0, 0xEF, 0xBE, 0xAD, 0xDE, 0] := by decide
/-- 2.5, R294. -/
theorem test_vsceg :
    bytesOf (exec (.vsceg 1 0 2 0 1) ((State.reset.writeVR 1 0x0102030405060708090A0B0C0D0E0F10#128).writeVR 2
      0x100#128)) 0x100 8 = some [9, 10, 11, 12, 13, 14, 15, 16] := by decide
/-- Section 1 S8, R296, PRESERVE. -/
theorem test_vll :
    vrOf (exec (.vll 1 3 0 2) (withBytes (((State.reset.writeVR 1 0xAAAAAAAAAAAAAAAAAAAAAAAAAAAAAAAA#128).writeGR 3
      5).writeGR 2 0x1100) 0x1100 [0x10, 0x11, 0x12, 0x13, 0x14, 0x15, 0x16])) 1 =
      some 0x101112131415AAAAAAAAAAAAAAAAAAAA#128 := by decide
/-- Section 1 S8, R296, ZERO. -/
theorem test_vll_zero :
    vrOf (exec (.vll 1 3 0 2) (under (withBytes (((State.reset.writeVR 1
      0xAAAAAAAAAAAAAAAAAAAAAAAAAAAAAAAA#128).writeGR 3 5).writeGR 2 0x1100) 0x1100
      [0x10, 0x11, 0x12, 0x13, 0x14, 0x15, 0x16]) otherParams)) 1 =
      some 0x10111213141500000000000000000000#128 := by decide
/-- 2.5, R297: three bytes and nothing else. -/
theorem test_vstl :
    bytesOf (exec (.vstl 1 3 0 2) ((((withBytes State.reset 0x2000 [0xEE, 0xEE, 0xEE, 0xEE]).writeVR 1 valA).writeGR 3
      2).writeGR 2 0x2000)) 0x2000 4 = some [0, 1, 2, 0xEE] := by decide
/-- 2.5, R295: the count's high half is ignored, and 0xFFFFFFFF gives 16, not 0. -/
theorem test_boundedLength :
    boundedLength 0x0000000100000002 = 3 ∧ boundedLength 0x00000000FFFFFFFF = 16 ∧ boundedLength 0 = 1 ∧
      boundedLength 15 = 16 ∧ boundedLength 0x7FFFFFFF = 16 := by decide
/-- 2.5, R298: index and base, and the high half kept. -/
theorem test_lcbb :
    grOf (exec (.lcbb 4 0 5 6 6) (((State.reset.writeGR 4 0xFFFFFFFFFFFFFFFF).writeGR 5 0x1000).writeGR 6 0x0FF8)) 4 =
      some 0xFFFFFFFF00000008 ∧
    ccOf (exec (.lcbb 4 0 5 6 6) (((State.reset.writeGR 4 0xFFFFFFFFFFFFFFFF).writeGR 5 0x1000).writeGR 6 0x0FF8)) =
      some 3 := by decide
/-- 2.5, R298: on a boundary, one below it, and at the top of the address space. -/
theorem test_blockCount :
    blockCount 0x1FF8 64 = 8 ∧ blockCount 0x1FF0 64 = 16 ∧ blockCount 0x1000 64 = 16 ∧ blockCount 0x103F 64 = 1 ∧
      blockCount 0x1001 128 = 16 ∧ blockCount 0x107F 128 = 1 ∧ blockCount 0xFFFFFFFFFFFFFFFF 4096 = 1 := by decide

/-! ### 46_predicate.md -/

/-- 2.6, R322. -/
theorem test_condHolds :
    (List.range 4).map (fun c => condHolds 1 (BitVec.ofNat 2 c)) = [false, false, false, true] ∧
    (List.range 4).map (fun c => condHolds 4 (BitVec.ofNat 2 c)) = [false, true, false, false] ∧
    (List.range 4).map (fun c => condHolds 8 (BitVec.ofNat 2 c)) = [true, false, false, false] ∧
    (List.range 4).map (fun c => condHolds 14 (BitVec.ofNat 2 c)) = [true, true, true, false] := by decide

/-- GR5, GR6 and GR9 of 2.6, GR1 = 0x1FF8, and a CC. -/
def conditional (cc : CondCode) : State :=
  ((((State.reset.writeGR 5 0x5555555555555555).writeGR 6 0x1111222233334444).writeGR 9 0x9999999999999999).writeGR 1
    0x1FF8).writeCC cc

/-- 2.6, R323. -/
theorem test_locr : grOf (exec (.locr 5 6 4) (conditional 1)) 5 = some 0x5555555533334444 := by decide
/-- 2.6, R324: true, then false. -/
theorem test_locgr :
    grOf (exec (.locgr 5 6 4) (conditional 1)) 5 = some 0x1111222233334444 ∧
    grOf (exec (.locgr 5 6 8) (conditional 1)) 5 = some 0x5555555555555555 := by decide
/-- 2.6, R327. -/
theorem test_loc :
    grOf (exec (.loc 9 4 1 1) (withBytes (conditional 3) 0x1FFC [0x33, 0x33, 0x44, 0x44])) 9 =
      some 0x9999999933334444 := by decide
/-- 2.6, R326. -/
theorem test_locg :
    grOf (exec (.locg 9 0 1 8) (withBytes (conditional 0) 0x1FF8 [0x01, 0x23, 0x45, 0x67, 0x89, 0xAB, 0xCD, 0xEF])) 9 =
      some 0x0123456789ABCDEF := by decide
/-- 2.6, R329. -/
theorem test_stoc :
    bytesOf (exec (.stoc 3 0 1 2) ((conditional 2).writeGR 3 0xFFFFFFFF12345678)) 0x1FF8 5 =
      some [0x12, 0x34, 0x56, 0x78, 0] := by decide
/-- 2.6, R325, R328: displacement -8. -/
theorem test_stocg :
    bytesOf (exec (.stocg 6 0xFFFF8 1 1) ((conditional 3).writeGR 1 0x2000)) 0x1FF8 8 =
      some [0x11, 0x11, 0x22, 0x22, 0x33, 0x33, 0x44, 0x44] := by decide

/-! ### Faults and refusals -/

/-- 2.1, 2.4, 2.5, R351: the fields and values of illegal codes. -/
theorem test_specification :
    specificationOf (exec (.va 1 2 3 5) State.reset) = some (.va, .m4, 5, 6) ∧
    specificationOf (exec (.vrep 1 3 16 0) State.reset) = some (.vrep, .i2, 16, 6) ∧
    specificationOf (exec (.vpks 1 2 3 0 0) State.reset) = some (.vpks, .m4, 0, 6) ∧
    specificationOf (exec (.lcbb 4 0 0 1 7) State.reset) = some (.lcbb, .m3, 7, 6) := by decide
/-- 2.5, R355: the index is checked before the refused operand is read. -/
theorem test_specification_before_access :
    specificationOf (exec (.vgef 1 0 2 1 4) (refusing indexed 0 (2 ^ 64))) = some (.vgef, .m3, 4, 6) := by decide
/-- 2.5, R296: ea+3 is the first refused byte. -/
theorem test_access_read :
    accessOf (exec (.vll 1 3 0 2) (refusing ((State.reset.writeGR 3 5).writeGR 2 0x6000) 0x6003 8)) =
      some (0x6003, .read, some 4, 6) := by decide
/-- 2.5, R296: a refusal beyond the length is not met. -/
theorem test_access_beyond_length :
    accessOf (exec (.vll 1 3 0 2) (refusing ((State.reset.writeGR 3 5).writeGR 2 0x6000) 0x6006 8)) = none := by decide
/-- 2.5, R297. -/
theorem test_access_write :
    accessOf (exec (.vstl 1 3 0 2) (refusing ((State.reset.writeGR 3 5).writeGR 2 0x5FFE) 0x6000 8)) =
      some (0x6000, .write, some 4, 6) := by decide
/-- 2.6, R325: a false condition under NEVER. -/
theorem test_false_never :
    grOf (exec (.locg 9 0 1 1) (under (refusing (conditional 0) 0x1FF8 8) otherParams)) 9 =
      some 0x9999999999999999 := by decide
/-- 2.5, R44: V1 unwritten, under PRESERVE and under ZERO, and with all 16 bytes loaded. -/
theorem test_unwritten :
    refusalOf (exec (.vll 1 3 0 0) (State.resetUnsupplied.writeGR 3 5)) = some .unwrittenRead ∧
    refusalOf (exec (.vll 1 3 0 0) (under (State.resetUnsupplied.writeGR 3 5) ⟨.zero, .signed, .floor, .fault, .may⟩)) =
      none ∧
    refusalOf (exec (.vll 1 3 0 0) (State.resetUnsupplied.writeGR 3 15)) = none := by decide
/-- 2.6, R44: the CC unwritten. -/
theorem test_unwritten_cc :
    refusalOf (exec (.locgr 5 6 8) ((State.resetUnsupplied.writeGR 5 0).writeGR 6 0)) = some .unwrittenRead := by decide

/-! ### Decoding refusals and well-formedness (2.1 to 2.7, R93, R115) -/

theorem test_refused_words :
    decode [0xE7, 0x12, 0x30, 0x00, 0x00, 0x00] = .unknownEncoding ∧
    decode [0xE7, 0x12, 0x30, 0x00, 0x00, 0xF4] = .unknownEncoding ∧
    decode [0xE7, 0x12, 0x30, 0x00, 0x01, 0xF3] = .reservedFieldNonzero ∧
    decode [0xE7, 0x12, 0x30, 0x01, 0x00, 0xF3] = .reservedFieldNonzero ∧
    decode [0xE7, 0x12, 0x30, 0x00, 0x10, 0x68] = .reservedFieldNonzero ∧
    decode [0xE7, 0x40, 0x10, 0x00, 0x61, 0x27] = .reservedFieldNonzero ∧
    decode [0xB9, 0xE2, 0x41, 0x56] = .reservedFieldNonzero := by decide

/-- Reserved bits of M5 (the CS field) and of VPDI's M4, on the words and on the instructions. -/
theorem test_wf_vch : Instr.wf (.vch 1 2 3 0 2) = false ∧ Instr.wf (.vch 1 2 3 0 1) = true ∧
    decode [0xE7, 0x12, 0x30, 0x20, 0x00, 0xFB] = .reservedFieldNonzero := by decide
theorem test_wf_vchl : Instr.wf (.vchl 1 2 3 0 8) = false ∧ Instr.wf (.vchl 1 2 3 15 0) = true ∧
    decode [0xE7, 0x12, 0x30, 0x80, 0x00, 0xF9] = .reservedFieldNonzero := by decide
theorem test_wf_vpks : Instr.wf (.vpks 1 2 3 1 2) = false ∧ Instr.wf (.vpks 1 2 3 1 1) = true ∧
    decode [0xE7, 0x12, 0x30, 0x20, 0x10, 0x97] = .reservedFieldNonzero := by decide
theorem test_wf_vpkls : Instr.wf (.vpkls 1 2 3 1 4) = false ∧ Instr.wf (.vpkls 1 2 3 1 1) = true ∧
    decode [0xE7, 0x12, 0x30, 0x40, 0x10, 0x95] = .reservedFieldNonzero := by decide
theorem test_wf_vpdi : Instr.wf (.vpdi 1 2 3 2) = false ∧ Instr.wf (.vpdi 1 2 3 8) = false ∧
    Instr.wf (.vpdi 1 2 3 5) = true ∧ decode [0xE7, 0x12, 0x30, 0x00, 0x20, 0x84] = .reservedFieldNonzero := by decide

/-! ### The step and the host's words -/

/-- R38, R42: section 1 S6's word as the first instruction after reset advances the address by 6. -/
theorem test_step :
    (match step (State.reset.withFetchWord 48 0xE711200008F3) with
      | .next t => some (t.ia, t.stream)
      | _ => none) = some (6, []) := by decide
/-- R91: a 4-byte word, with the two zero bytes that follow it left over. -/
theorem test_step_short :
    (match step (State.reset.withFetchWord 32 0xB9E24056) with
      | .next t => some (t.ia, t.stream)
      | _ => none) = some (4, [0, 0]) := by decide
theorem test_table_words :
    decodeTableWord 48 0xE711200008F3 = some (.va 17 1 2 0) ∧ decodeTableWord 32 0xB9E24056 = some (.locgr 5 6 4) ∧
      decodeTableWord 48 0xE712300000F4 = none := by decide
/-- R42: no word handed. -/
theorem test_no_word : refusalOf (step State.reset) = some .noWord := by decide


/-! ### Witnesses: the hypotheses of each obligation hold together somewhere -/

/-- Every register supplied, V2 and V3 with the operands A1 and B1. -/
def pair : State := given valA1 valB1 valA
/-- No register supplied, unwritten reads drawn, z/Architecture's parameter values. -/
def drawing : State := under State.resetUnsupplied otherParams

/-- A register that holds a value and one whose read is drawn can be read. -/
theorem witness_readable :
    pair.vrReadable 2 = true ∧ pair.vrReadable 31 = true ∧ pair.grReadable 15 = true ∧ pair.baseReadable 0 = true ∧
    pair.baseReadable 15 = true ∧ pair.ccReadable = true ∧ drawing.vrReadable 2 = true ∧ drawing.vrHeld 2 = false ∧
    drawing.grReadable 15 = true ∧ drawing.baseReadable 15 = true ∧ drawing.ccReadable = true := by decide

theorem witness_AddAndSubtractWrapPerLane :
    (0#4).toNat ≤ 4 ∧ (4#4).toNat ≤ 4 ∧ pair.vrReadable 2 = true ∧ pair.vrReadable 3 = true := by decide
theorem witness_BitwiseLogicPerBit : pair.vrReadable 2 = true ∧ pair.vrReadable 3 = true := by decide
theorem witness_AverageNeverWraps :
    (0#4).toNat ≤ 4 ∧ (4#4).toNat ≤ 4 ∧ pair.vrReadable 2 = true ∧ pair.vrReadable 3 = true ∧
    pair.params.avgRound = .floor ∧ drawing.vrReadable 2 = true ∧ drawing.vrReadable 3 = true ∧
    drawing.params.avgRound = .halfUp := by decide
theorem witness_FloorAverageIsTheSourceExpression :
    pair.params.avgRound = .floor ∧ (4#4).toNat ≤ 4 ∧ pair.vrReadable 2 = true ∧ pair.vrReadable 3 = true := by decide
theorem witness_MaximumAndMinimumPerLane :
    (0#4).toNat ≤ 4 ∧ (4#4).toNat ≤ 4 ∧ pair.vrReadable 2 = true ∧ pair.vrReadable 3 = true := by decide
theorem witness_MultiplyLowAndHighHalves :
    (0#4).toNat ≤ 2 ∧ (2#4).toNat ≤ 2 ∧ pair.vrReadable 2 = true ∧ pair.vrReadable 3 = true := by decide
theorem witness_EvenOddMultiplyIsExact :
    (0#4).toNat ≤ 2 ∧ (2#4).toNat ≤ 2 ∧ pair.vrReadable 2 = true ∧ pair.vrReadable 3 = true ∧
    elemCount (width 0) / 2 = 8 ∧ elemCount (width 2) / 2 = 2 := by decide
theorem witness_ComplementAndPositivePerLane :
    (0#4).toNat ≤ 3 ∧ (3#4).toNat ≤ 3 ∧ pair.vrReadable 2 = true ∧ (elem valA1 1 0).msb = true ∧
    (elem valA1 1 1).msb = false := by decide
theorem witness_PopulationCountPerByte : pair.vrReadable 2 = true ∧ drawing.vrReadable 2 = true := by decide
theorem witness_ZeroCountsPerLane : (0#4).toNat ≤ 3 ∧ (3#4).toNat ≤ 3 ∧ pair.vrReadable 2 = true := by decide
theorem witness_PackTruncates :
    1 ≤ (1#4).toNat ∧ (1#4).toNat ≤ 3 ∧ 1 ≤ (3#4).toNat ∧ (3#4).toNat ≤ 3 ∧ pair.vrReadable 2 = true ∧
    pair.vrReadable 3 = true := by decide
/-- With CS = 1, for each of the three CC clauses, operands whose elements all, none or some saturate. -/
theorem witness_SignedPackSaturates :
    1 ≤ (1#4).toNat ∧ (1#4).toNat ≤ 3 ∧ csBit 1 = true ∧ csBit 0 = false ∧ pair.vrReadable 2 = true ∧
    pair.vrReadable 3 = true ∧
    (∀ j, j < 16 → ¬ ((packSource 0x007F007F007F007F007F007F007F007F#128 0xFF80FF80FF80FF80FF80FF80FF80FF80#128 2 j).toInt
      < -2 ^ 7 ∨ 2 ^ 7 ≤ (packSource 0x007F007F007F007F007F007F007F007F#128 0xFF80FF80FF80FF80FF80FF80FF80FF80#128 2
        j).toInt)) ∧
    (∀ j, j < 16 → ((packSource 0x00800080008000800080008000800080#128 0xFF7FFF7FFF7FFF7FFF7FFF7FFF7FFF7F#128 2 j).toInt
      < -2 ^ 7 ∨ 2 ^ 7 ≤ (packSource 0x00800080008000800080008000800080#128 0xFF7FFF7FFF7FFF7FFF7FFF7FFF7FFF7F#128 2
        j).toInt)) ∧
    2 ^ 7 ≤ (packSource valPA valPB 2 0).toInt ∧ (packSource valPA valPB 2 1).toInt = -5 := by decide
theorem witness_LogicalPackSaturates :
    1 ≤ (3#4).toNat ∧ (3#4).toNat ≤ 3 ∧ pair.vrReadable 2 = true ∧ pair.vrReadable 3 = true ∧
    pair.params.pklsSrc = .signed ∧ drawing.vrReadable 2 = true ∧ drawing.vrReadable 3 = true ∧
    drawing.params.pklsSrc = .unsigned ∧ (packSource valPA valPB 2 1).toInt < 0 ∧
    2 ^ 8 ≤ (packSource valPA valPB 2 1).toNat ∧ (packSource valPA valPB 2 2).toNat = 0x80 := by decide
theorem witness_UnpackExtendsHalf : (0#4).toNat ≤ 2 ∧ (2#4).toNat ≤ 2 ∧ pair.vrReadable 2 = true := by decide
theorem witness_SaturationAndRoundTripLaws :
    (32 = 8 ∨ 32 = 16 ∨ 32 = 32) ∧ sat 300 .signed 8 = 127 ∧ sat (-300) .unsigned 8 = 0 ∧
    (0#4).toNat ≤ 2 ∧ (1#4).toNat = (0#4).toNat + 1 ∧ (2#4).toNat ≤ 2 ∧ (3#4).toNat = (2#4).toNat + 1 ∧
    (4 : VReg) ≠ 2 ∧ (4 : VReg) ≠ 5 ∧ pair.vrHeld 2 = true ∧ csBit 1 = true := by decide
theorem witness_PermuteSelectsBytes :
    pair.vrReadable 2 = true ∧ pair.vrReadable 3 = true ∧ pair.vrReadable 4 = true := by decide
theorem witness_SelectTakesMaskedBits :
    pair.vrReadable 2 = true ∧ pair.vrReadable 3 = true ∧ pair.vrReadable 4 = true ∧
    (pair.vrValue 4).getLsbD 0 = true ∧ (pair.vrValue 4).getLsbD 127 = false := by decide
theorem witness_MergeInterleavesHalves :
    (0#4).toNat ≤ 3 ∧ (3#4).toNat ≤ 3 ∧ pair.vrReadable 2 = true ∧ pair.vrReadable 3 = true := by decide
theorem witness_ReplicateCopiesElement :
    (0#4).toNat ≤ 3 ∧ (15#16).toNat < elemCount (width 0) ∧ (3#4).toNat ≤ 3 ∧ (1#16).toNat < elemCount (width 3) ∧
    pair.vrReadable 3 = true := by decide
theorem witness_ReplicateImmediateExtends : (0#4).toNat ≤ 3 ∧ (3#4).toNat ≤ 3 := by decide
theorem witness_DoublewordPermute : pair.vrReadable 2 = true ∧ pair.vrReadable 3 = true := by decide
/-- `Mem` admits every access where it refuses nothing. -/
theorem witness_GatherLoadsOneElement :
    indexed.vrReadable 1 = true ∧ indexed.baseReadable 1 = true ∧ indexed.vrReadable 2 = true ∧ (3#4).toNat ≤ 3 ∧
    (1#4).toNat ≤ 1 ∧ Admits indexed.mem .read ((indexed.afterVR 1).baseValue 1 + (0xFFF#12).setWidth 64 +
      (elem (((indexed.afterVR 1).afterBase 1).vrValue 2) 4 3).setWidth 64) 4 ∧ Admits indexed.mem .read ((indexed.afterVR 1).baseValue 1 + (0#12).setWidth 64 +
      elem (((indexed.afterVR 1).afterBase 1).vrValue 2) 8 1) 8 := by
  unfold Admits; decide
theorem witness_ScatterStoresOneElement :
    indexed.wf = true ∧ indexed.vrReadable 1 = true ∧ indexed.baseReadable 1 = true ∧ indexed.vrReadable 2 = true ∧
    (3#4).toNat ≤ 3 ∧ (1#4).toNat ≤ 1 ∧ Admits indexed.mem .write ((indexed.afterVR 1).baseValue 1 + (0xFFF#12).setWidth 64 +
      (elem (((indexed.afterVR 1).afterBase 1).vrValue 2) 4 3).setWidth 64) 4 ∧
    Admits indexed.mem .write ((indexed.afterVR 1).baseValue 1 + (0#12).setWidth 64 +
      elem (((indexed.afterVR 1).afterBase 1).vrValue 2) 8 1) 8 := by
  unfold Admits; decide
/-- One byte (count 0) under PRESERVE and under ZERO, and sixteen (count 15) with V1 holding no value. -/
theorem witness_BoundedLoadFillsPrefix :
    (pair.grReadable 3 = true ∧ pair.baseReadable 2 = true ∧ min ((pair.grValue 3).toNat % 2 ^ 32 + 1) 16 = 1 ∧
      pair.params.vllTail = .preserve ∧ pair.vrReadable 1 = true ∧ Admits pair.mem .read 0 1) ∧
    (drawing.grReadable 3 = true ∧ drawing.baseReadable 0 = true ∧ drawing.params.vllTail = .zero ∧
      Admits drawing.mem .read 0 16) ∧
    (let s := State.resetUnsupplied.writeGR 3 15
     s.grReadable 3 = true ∧ s.baseReadable 0 = true ∧ min ((s.grValue 3).toNat % 2 ^ 32 + 1) 16 = 16 ∧
      s.vrReadable 1 = false) := by
  unfold Admits; decide
theorem witness_BoundedStoreWritesPrefix :
    pair.wf = true ∧ pair.grReadable 3 = true ∧ pair.baseReadable 2 = true ∧ pair.vrReadable 1 = true ∧
    Admits pair.mem .write 0 16 := by
  unfold Admits; decide
theorem witness_LoadCountToBlockBoundary :
    (0#4).toNat ≤ 6 ∧ (6#4).toNat ≤ 6 ∧ pair.baseReadable 0 = true ∧ pair.baseReadable 15 = true ∧
    pair.grReadable 4 = true := by decide
/-- LCBB at 0x103F in a block of 64 gives 1; VLL of one byte there, and a memory that differs from the next byte on, which is in
the next block. -/
theorem witness_BlockBoundLoadStaysInBlock :
    let s := withBytes (State.reset.writeGR 1 0x103F) 0x103F [7, 8]
    let m := (refusing (withBytes s 0x1040 [9]) 0x1040 16).mem
    grOf (exec (.lcbb 4 0 0 1 0) s) 4 = some 1 ∧ (1#64).toNat % 2 ^ 32 = 1 ∧
    s.baseValue 0 + (s.afterBase 0).baseValue 1 + (0#12).setWidth 64 = 0x103F ∧
    (s.grValue 3).toNat % 2 ^ 32 + 1 = 1 ∧ (s.afterGR 3).baseValue 1 + (0#12).setWidth 64 = 0x103F ∧
    (∃ w, exec (.vll 5 3 0 1) s = .next w) ∧ m ≠ s.mem ∧
    (∀ a : Addr, a.toNat / (64 * 2 ^ (0#4).toNat) = (0x103F : Addr).toNat / (64 * 2 ^ (0#4).toNat) →
      m.byteAt a = s.mem.byteAt a ∧ m.refusal .read a = s.mem.refusal .read a) := by
  refine ⟨by decide, by decide, by decide, by decide, by decide, ⟨_, rfl⟩, by decide, ?_⟩
  intro a ha
  have hb : a.toNat / 64 = 64 := ha
  have hlt : a.toNat < 0x1040 := by omega
  have hm : (refusing (withBytes (withBytes (State.reset.writeGR 1 0x103F) 0x103F [7, 8]) 0x1040 [9]) 0x1040 16).mem =
      ⟨[(0x103F, 7), (0x1040, 9)], [⟨0x1040, 16, true, true, some 4⟩]⟩ := by decide
  have hs : (withBytes (State.reset.writeGR 1 0x103F) 0x103F [7, 8]).mem = ⟨[(0x103F, 7), (0x1040, 8)], []⟩ := by decide
  rw [hm, hs]
  refine ⟨?_, ?_⟩
  · unfold Mem.byteAt readCell readCell
    split
    · rfl
    · split
      · rfl
      · rfl
  · have : ¬ 0x1040 ≤ a.toNat := by omega
    simp [Mem.refusal, RefusedRange.covers, this]
theorem witness_StoreBytesThenLoadDoubleword :
    let s := ((given valA valB1 0).writeGR 3 15).writeGR 1 0x2000
    s.wf = true ∧ s.AllSupplied ∧ 15 ≤ (s.grAt 3).toNat % 2 ^ 32 ∧ (∃ t, exec (.vstl 2 3 0 1) s = .next t) ∧
    s.baseValue 1 + (0#20).signExtend 64 = s.baseValue 1 + (0#12).setWidth 64 ∧ condHolds 8 s.cc = true ∧
    Admits s.mem .read (s.baseValue 1 + (0#20).signExtend 64) 8 := by
  unfold State.AllSupplied Admits
  refine ⟨by decide, by decide, by decide, ⟨_, rfl⟩, by decide, by decide, by decide⟩
/-- All, none and some of the doublewords compare high. -/
theorem witness_CompareHighMask :
    (0#4).toNat ≤ 3 ∧ (3#4).toNat ≤ 3 ∧ pair.vrReadable 2 = true ∧ pair.vrReadable 3 = true ∧ csBit 1 = true ∧
    (∀ i, i < 2 → (elem valB1 8 i).slt (elem valA1 8 i) = true) ∧
    (∀ i, i < 2 → (elem valA1 8 i).slt (elem valB1 8 i) = false) ∧
    (elem valB1 8 0).ult (elem valA1 8 0) = true ∧ (elem valB1 8 1).ult (elem valA1 8 1) = false := by decide
/-- CC 1: mask 4 holds, mask 11 does not. -/
theorem witness_LoadRegisterOnCondition :
    (conditional 1).ccReadable = true ∧ (4#4).getLsbD (3 - (conditional 1).ccValue.toNat) = true ∧
    (11#4).getLsbD (3 - (conditional 1).ccValue.toNat) = false ∧ (conditional 1).grReadable 5 = true ∧
    (conditional 1).grReadable 6 = true := by decide
theorem witness_LoadOnConditionTrue :
    (conditional 3).baseReadable 1 = true ∧ (conditional 3).ccReadable = true ∧
    (1#4).getLsbD (3 - ((conditional 3).afterBase 1).ccValue.toNat) = true ∧ (conditional 3).grReadable 9 = true ∧
    Admits (conditional 3).mem .read ((conditional 3).baseValue 1 + (0x80000#20).signExtend 64) 8 ∧
    Admits (conditional 3).mem .read ((conditional 3).baseValue 1 + (0x80000#20).signExtend 64) 4 := by
  unfold Admits; decide
theorem witness_StoreOnConditionTrue :
    (conditional 0).wf = true ∧ (conditional 0).baseReadable 0 = true ∧ (conditional 0).ccReadable = true ∧
    (conditional 0).grReadable 6 = true ∧ (8#4).getLsbD (3 - ((conditional 0).afterBase 0).ccValue.toNat) = true ∧
    Admits (conditional 0).mem .write ((conditional 0).baseValue 0 + (0x7FFFF#20).signExtend 64) 8 ∧
    Admits (conditional 0).mem .write ((conditional 0).baseValue 0 + (0x7FFFF#20).signExtend 64) 4 := by
  unfold Admits; decide
/-- A false condition with the operand admitted, under NEVER with it refused, and under MAY with its last byte refused. -/
theorem witness_FalseConditionChangesNothing :
    (conditional 0).baseReadable 1 = true ∧ (conditional 0).ccReadable = true ∧
    (7#4).getLsbD (3 - ((conditional 0).afterBase 1).ccValue.toNat) = false ∧
    Admits (conditional 0).mem .write ((conditional 0).baseValue 1 + (0#20).signExtend 64) 8 ∧
    (under (refusing (conditional 0) 0x1FF8 8) otherParams).params.locFalseAccess = .never ∧
    (refusing (conditional 0) 0x1FFF 8).params.locFalseAccess = .may ∧
    FirstRefused (refusing (conditional 0) 0x1FFF 8).mem .read
      ((refusing (conditional 0) 0x1FFF 8).baseValue 1 + (0#20).signExtend 64) 8 7 (some 4) := by
  unfold FirstRefused Admits; decide
theorem witness_InstructionFrame :
    pair.wf = true ∧ (∃ t, exec (.va 1 2 3 0) pair = .next t) ∧ (∃ t, exec (.vstl 2 0 0 0) pair = .next t) ∧
    (∃ t, exec (.lcbb 4 0 0 0 0) pair = .next t) := ⟨by decide, ⟨_, rfl⟩, ⟨_, rfl⟩, ⟨_, rfl⟩⟩
theorem witness_WrittenConditionCodeIsNeverTwo :
    setsCC (.vch 1 2 3 0 1) = true ∧ (∃ t, exec (.vch 1 2 3 0 1) pair = .next t) ∧ setsCC (.lcbb 4 0 0 0 0) = true ∧
    (∃ t, exec (.lcbb 4 0 0 0 0) pair = .next t) := ⟨rfl, ⟨_, rfl⟩, rfl, ⟨_, rfl⟩⟩
theorem witness_OnlyLocFamilyReadsConditionCode :
    readsCC (.va 1 2 3 0) = false ∧ (∃ t, exec (.va 1 2 3 0) pair = .next t) ∧ readsCC (.vpks 1 2 3 1 1) = false ∧
    (∃ t, exec (.vpks 1 2 3 1 1) pair = .next t) := ⟨rfl, ⟨_, rfl⟩, rfl, ⟨_, rfl⟩⟩
/-- Two memories that differ outside the word gathered. -/
theorem witness_OutcomeDependsOnOperandBytesOnly :
    let s := withBytes indexed 0x3020 [1, 2, 3, 4]
    let m := (withBytes s 0x3024 [9]).mem
    m ≠ s.mem ∧ storedTo (.vgef 1 0 2 1 1) s = none ∧
    storageOperand (.vgef 1 0 2 1 1) s = some (.read, 0x3020, 4) ∧
    (∀ j, j < 4 → m.byteAt (byteAddr 0x3020 j) = s.mem.byteAt (byteAddr 0x3020 j) ∧
      m.refusal .read (byteAddr 0x3020 j) = s.mem.refusal .read (byteAddr 0x3020 j)) ∧
    vrOf (exec (.vgef 1 0 2 1 1) s) 1 ≠ none := by decide
theorem witness_SpecificationExactly :
    drawing.drawsUnwritten = true ∧ illegalCode (.vrep 1 3 16 0) = some (.i2, 16) ∧
    illegalCode (.vrep 1 3 15 0) = none ∧ illegalCode (.vpopct 1 2 15) = some (.m3, 15) ∧
    ¬ ReadsUnwritten (.vpopct 1 2 15) pair := by
  unfold ReadsUnwritten; simp [vrSources, grSources, readsCC]; decide
/-- The first and the last byte of an operand refused, for a load and for a store. -/
theorem witness_AccessExactly :
    let s := refusing indexed 0x3023 1
    let t := refusing indexed 0x3020 4
    illegalCode (.vgef 1 0 2 1 1) = none ∧ loadedFrom (.vgef 1 0 2 1 1) s = some (0x3020, 4) ∧
    FirstRefused s.mem .read 0x3020 4 3 (some 4) ∧ illegalCode (.vscef 1 0 2 1 1) = none ∧
    storedTo (.vscef 1 0 2 1 1) t = some (0x3020, 4) ∧ FirstRefused t.mem .write 0x3020 4 0 (some 4) ∧
    accessOf (exec (.vgef 1 0 2 1 1) s) = some (0x3023, .read, some 4, 6) ∧
    ¬ ReadsUnwritten (.vgef 1 0 2 1 1) s ∧ ¬ ReadsUnwritten (.vscef 1 0 2 1 1) t := by
  unfold FirstRefused Admits ReadsUnwritten
  refine ⟨by decide, by decide, by decide, by decide, by decide, by decide, by decide, ?_, ?_⟩ <;>
    simp [vrSources, grSources, readsCC, baseSource] <;> decide
theorem witness_FaultsSuppress :
    pair.wf = true ∧ specificationOf (exec (.va 1 2 3 5) pair) ≠ none ∧ (refusing indexed 0x3023 1).wf = true ∧
    accessOf (exec (.vgef 1 0 2 1 1) (refusing indexed 0x3023 1)) = some (0x3023, .read, some 4, 6) ∧
    accessOf (exec (.vscef 1 0 2 1 1) (refusing indexed 0x3023 1)) = some (0x3023, .write, some 4, 6) := by decide
theorem witness_PartialStoreBeforeRefusedByte :
    let s := refusing indexed 0x3023 1
    s.wf = true ∧ accessOf (exec (.vscef 1 0 2 1 1) s) = some (0x3023, .write, some 4, 6) ∧
    storedTo (.vscef 1 0 2 1 1) s = some (0x3020, 4) := by decide
theorem witness_UnwrittenReadRefuses :
    State.resetUnsupplied.drawsUnwritten = false ∧
    refusalOf (exec (.va 1 2 3 0) State.resetUnsupplied) = some .unwrittenRead ∧ drawing.drawsUnwritten = true := by
  decide
/-- A step that completes, one that faults and one that is refused. -/
theorem witness_StepRunsDecodedInstruction :
    (∃ u, decode (pair.withFetchWord 48 0xE711200008F3).stream = .instr (.va 17 1 2 0) [] ∧
      exec (.va 17 1 2 0) (pair.withFetchWord 48 0xE711200008F3) = .next u) ∧
    (∃ f, decode (pair.withFetchWord 48 0xE712300050F3).stream = .instr (.va 1 2 3 5) [] ∧
      exec (.va 1 2 3 5) (pair.withFetchWord 48 0xE712300050F3) = .fault f) ∧
    (∃ e, exec (.va 17 1 2 0) (State.resetUnsupplied.withFetchWord 48 0xE711200008F3) = .refused e) :=
  ⟨⟨_, by decide, rfl⟩, ⟨_, by decide, rfl⟩, ⟨_, rfl⟩⟩
theorem witness_StepRefusesUndecodedWords :
    decode (pair.withFetchWord 48 0xE712300000F4).stream = .unknownEncoding ∧
    decode (pair.withFetchWord 48 0xE712300100F3).stream = .reservedFieldNonzero := by decide
/-- A 6-byte and a 4-byte instruction, the last with its address wrapping. -/
theorem witness_StepAdvancesByLength :
    (∃ t, step (pair.withFetchWord 48 0xE711200008F3) = .next t ∧ t.ia = 6) ∧
    (∃ t, step ({ pair with ia := 0xFFFFFFFFFFFFFFFC }.withFetchWord 32 0xB9E24056) = .next t ∧ t.ia = 0) :=
  ⟨⟨_, rfl, by decide⟩, ⟨_, rfl, by decide⟩⟩
/-- Canonical memory with a cell listed, and a step that stores and one that faults. -/
theorem witness_StepKeepsMemoryCanonical :
    (withBytes pair 0x10 [7]).wf = true ∧
    (∃ t, step ((withBytes pair 0x10 [7]).withFetchWord 48 0xE7200000003F) = .next t) ∧
    (∃ f, step ((withBytes pair 0x10 [7]).withFetchWord 48 0xE712300050F3) = .fault f) :=
  ⟨by decide, ⟨_, rfl⟩, ⟨_, rfl⟩⟩
theorem witness_StepKeepsParametersAndHeldRegisters :
    (∃ t, step (pair.withFetchWord 48 0xE711200008F3) = .next t) ∧ pair.vrHeld 31 = true ∧ pair.grHeld 15 = true ∧
    pair.ccSupplied = true := ⟨⟨_, rfl⟩, by decide, by decide, rfl⟩
theorem witness_SuppliedStatesStaySound :
    pair.AllSupplied ∧ pair.cc ≠ 2#2 ∧ (∃ t, step (pair.withFetchWord 48 0xE711200008F3) = .next t) := by
  unfold State.AllSupplied
  exact ⟨by decide, by decide, ⟨_, rfl⟩⟩
theorem witness_DecodeOfEncode :
    Instr.wf (.vch 31 16 15 3 1) = true ∧ Instr.wf (.vpdi 31 16 15 5) = true ∧ Instr.wf (.locr 15 0 15) = true := by
  decide
theorem witness_EncodeOfDecode : decode [0xB9, 0xE2, 0x41, 0x56, 0x00, 0x00] = .reservedFieldNonzero ∧
    decode [0xB9, 0xE2, 0x40, 0x56, 0x01, 0x02] = .instr (.locgr 5 6 4) [0x01, 0x02] := by decide
/-- Words of 2, 4 and 6 bytes, and a word for each of the three outcomes. -/
theorem witness_DecodeFollowsOpcodeTable :
    (∀ p, p ∈ [(2, 0x1234#48), (4, 0xB9E24056#48), (6, 0xE711200008F3#48)] →
      p.2.toNat < 2 ^ (8 * p.1) ∧ lengthCode (p.2.extractLsb' (8 * (p.1 - 1)) 8) = p.1) ∧
    decode (bytesOfWord 2 0x1234#48) = .unknownEncoding ∧
    decode (bytesOfWord 4 0xB9E24056#48) = .instr (.locgr 5 6 4) [] ∧
    decode (bytesOfWord 6 0xE711200008F3#48) = .instr (.va 17 1 2 0) [] ∧
    decode (bytesOfWord 6 0xE712300100F3#48) = .reservedFieldNonzero ∧
    decode (bytesOfWord 6 0xE712300000F4#48) = .unknownEncoding := by decide
theorem witness_OpcodeRowsDisjoint :
    Mnemonic.va ≠ .vs ∧ (opcodeRow .va).len = (opcodeRow .vs).len ∧
    0xE711200008F3#48 &&& (opcodeRow .va).mask = (opcodeRow .va).pattern := by decide
theorem witness_ElementRangeIndices : 1 ∈ [1, 2, 4, 8, 16] ∧ 16 ∈ [1, 2, 4, 8, 16] ∧ 1 < 16 := by decide

/-! ### One word of every instruction (R92, R96 to R111), and what it decodes to -/

/-! VRR-a (R97). -/
theorem test_decode_vlc :
    decode [0xE7, 0x32, 0x00, 0x00, 0x24, 0xDE] = .instr (.vlc 3 18 2) [] := by decide
theorem test_decode_vlp :
    decode [0xE7, 0x32, 0x00, 0x00, 0x24, 0xDF] = .instr (.vlp 3 18 2) [] := by decide
theorem test_decode_vpopct :
    decode [0xE7, 0x32, 0x00, 0x00, 0x24, 0x50] = .instr (.vpopct 3 18 2) [] := by decide
theorem test_decode_vclz :
    decode [0xE7, 0x32, 0x00, 0x00, 0x24, 0x53] = .instr (.vclz 3 18 2) [] := by decide
theorem test_decode_vctz :
    decode [0xE7, 0x32, 0x00, 0x00, 0x24, 0x52] = .instr (.vctz 3 18 2) [] := by decide
theorem test_decode_vuph :
    decode [0xE7, 0x32, 0x00, 0x00, 0x24, 0xD7] = .instr (.vuph 3 18 2) [] := by decide
theorem test_decode_vupl :
    decode [0xE7, 0x32, 0x00, 0x00, 0x24, 0xD6] = .instr (.vupl 3 18 2) [] := by decide
theorem test_decode_vuplh :
    decode [0xE7, 0x32, 0x00, 0x00, 0x24, 0xD5] = .instr (.vuplh 3 18 2) [] := by decide
theorem test_decode_vupll :
    decode [0xE7, 0x32, 0x00, 0x00, 0x24, 0xD4] = .instr (.vupll 3 18 2) [] := by decide
/-! VRR-b (R98). -/
theorem test_decode_vch :
    decode [0xE7, 0x12, 0x30, 0x10, 0x3A, 0xFB] = .instr (.vch 17 2 19 3 1) [] := by decide
theorem test_decode_vchl :
    decode [0xE7, 0x12, 0x30, 0x10, 0x3A, 0xF9] = .instr (.vchl 17 2 19 3 1) [] := by decide
theorem test_decode_vpks :
    decode [0xE7, 0x12, 0x30, 0x10, 0x3A, 0x97] = .instr (.vpks 17 2 19 3 1) [] := by decide
theorem test_decode_vpkls :
    decode [0xE7, 0x12, 0x30, 0x10, 0x3A, 0x95] = .instr (.vpkls 17 2 19 3 1) [] := by decide
/-! VRR-c (R99). -/
theorem test_decode_va :
    decode [0xE7, 0x12, 0x30, 0x00, 0x24, 0xF3] = .instr (.va 1 18 3 2) [] := by decide
theorem test_decode_vs :
    decode [0xE7, 0x12, 0x30, 0x00, 0x24, 0xF7] = .instr (.vs 1 18 3 2) [] := by decide
theorem test_decode_vavg :
    decode [0xE7, 0x12, 0x30, 0x00, 0x24, 0xF2] = .instr (.vavg 1 18 3 2) [] := by decide
theorem test_decode_vavgl :
    decode [0xE7, 0x12, 0x30, 0x00, 0x24, 0xF0] = .instr (.vavgl 1 18 3 2) [] := by decide
theorem test_decode_vmx :
    decode [0xE7, 0x12, 0x30, 0x00, 0x24, 0xFF] = .instr (.vmx 1 18 3 2) [] := by decide
theorem test_decode_vmxl :
    decode [0xE7, 0x12, 0x30, 0x00, 0x24, 0xFD] = .instr (.vmxl 1 18 3 2) [] := by decide
theorem test_decode_vmn :
    decode [0xE7, 0x12, 0x30, 0x00, 0x24, 0xFE] = .instr (.vmn 1 18 3 2) [] := by decide
theorem test_decode_vmnl :
    decode [0xE7, 0x12, 0x30, 0x00, 0x24, 0xFC] = .instr (.vmnl 1 18 3 2) [] := by decide
theorem test_decode_vml :
    decode [0xE7, 0x12, 0x30, 0x00, 0x24, 0xA2] = .instr (.vml 1 18 3 2) [] := by decide
theorem test_decode_vmh :
    decode [0xE7, 0x12, 0x30, 0x00, 0x24, 0xA3] = .instr (.vmh 1 18 3 2) [] := by decide
theorem test_decode_vmlh :
    decode [0xE7, 0x12, 0x30, 0x00, 0x24, 0xA1] = .instr (.vmlh 1 18 3 2) [] := by decide
theorem test_decode_vme :
    decode [0xE7, 0x12, 0x30, 0x00, 0x24, 0xA6] = .instr (.vme 1 18 3 2) [] := by decide
theorem test_decode_vmle :
    decode [0xE7, 0x12, 0x30, 0x00, 0x24, 0xA4] = .instr (.vmle 1 18 3 2) [] := by decide
theorem test_decode_vmo :
    decode [0xE7, 0x12, 0x30, 0x00, 0x24, 0xA7] = .instr (.vmo 1 18 3 2) [] := by decide
theorem test_decode_vmlo :
    decode [0xE7, 0x12, 0x30, 0x00, 0x24, 0xA5] = .instr (.vmlo 1 18 3 2) [] := by decide
theorem test_decode_vpk :
    decode [0xE7, 0x12, 0x30, 0x00, 0x24, 0x94] = .instr (.vpk 1 18 3 2) [] := by decide
theorem test_decode_vmrh :
    decode [0xE7, 0x12, 0x30, 0x00, 0x24, 0x61] = .instr (.vmrh 1 18 3 2) [] := by decide
theorem test_decode_vmrl :
    decode [0xE7, 0x12, 0x30, 0x00, 0x24, 0x60] = .instr (.vmrl 1 18 3 2) [] := by decide
theorem test_decode_vpdi :
    decode [0xE7, 0x12, 0x30, 0x00, 0x54, 0x84] = .instr (.vpdi 1 18 3 5) [] := by decide
theorem test_decode_vn :
    decode [0xE7, 0x12, 0x30, 0x00, 0x0A, 0x68] = .instr (.vn 17 2 19) [] := by decide
theorem test_decode_vnc :
    decode [0xE7, 0x12, 0x30, 0x00, 0x0A, 0x69] = .instr (.vnc 17 2 19) [] := by decide
theorem test_decode_vo :
    decode [0xE7, 0x12, 0x30, 0x00, 0x0A, 0x6A] = .instr (.vo 17 2 19) [] := by decide
theorem test_decode_vno :
    decode [0xE7, 0x12, 0x30, 0x00, 0x0A, 0x6B] = .instr (.vno 17 2 19) [] := by decide
theorem test_decode_vx :
    decode [0xE7, 0x12, 0x30, 0x00, 0x0A, 0x6D] = .instr (.vx 17 2 19) [] := by decide
/-! VRR-e (R101). -/
theorem test_decode_vperm :
    decode [0xE7, 0x12, 0x30, 0x00, 0x41, 0x8C] = .instr (.vperm 1 2 3 20) [] := by decide
theorem test_decode_vsel :
    decode [0xE7, 0x12, 0x30, 0x00, 0x41, 0x8D] = .instr (.vsel 1 2 3 20) [] := by decide
/-! VRI-a (R102). -/
theorem test_decode_vrepi :
    decode [0xE7, 0x10, 0xFF, 0xFB, 0x38, 0x45] = .instr (.vrepi 17 0xfffb 3) [] := by decide
/-! VRI-c (R103). -/
theorem test_decode_vrep :
    decode [0xE7, 0x12, 0x00, 0x07, 0x14, 0x4D] = .instr (.vrep 1 18 7 1) [] := by decide
/-! VRS-b (R104). -/
theorem test_decode_vll :
    decode [0xE7, 0x12, 0x31, 0x23, 0x08, 0x37] = .instr (.vll 17 2 0x123 3) [] := by decide
theorem test_decode_vstl :
    decode [0xE7, 0x12, 0x31, 0x23, 0x08, 0x3F] = .instr (.vstl 17 2 0x123 3) [] := by decide
/-! VRV (R105). -/
theorem test_decode_vgef :
    decode [0xE7, 0x12, 0x3F, 0xFF, 0x14, 0x13] = .instr (.vgef 1 0xfff 18 3 1) [] := by decide
theorem test_decode_vgeg :
    decode [0xE7, 0x12, 0x3F, 0xFF, 0x14, 0x12] = .instr (.vgeg 1 0xfff 18 3 1) [] := by decide
theorem test_decode_vscef :
    decode [0xE7, 0x12, 0x3F, 0xFF, 0x14, 0x1B] = .instr (.vscef 1 0xfff 18 3 1) [] := by decide
theorem test_decode_vsceg :
    decode [0xE7, 0x12, 0x3F, 0xFF, 0x14, 0x1A] = .instr (.vsceg 1 0xfff 18 3 1) [] := by decide
/-! RXE (R106). -/
theorem test_decode_lcbb :
    decode [0xE7, 0x45, 0x61, 0x23, 0x70, 0x27] = .instr (.lcbb 4 0x123 5 6 7) [] := by decide
/-! RRF-c (R107). -/
theorem test_decode_locr :
    decode [0xB9, 0xF2, 0x40, 0x56] = .instr (.locr 5 6 4) [] := by decide
theorem test_decode_locgr :
    decode [0xB9, 0xE2, 0x40, 0x56] = .instr (.locgr 5 6 4) [] := by decide
/-! RSY-b (R108). -/
theorem test_decode_loc :
    decode [0xEB, 0x69, 0x1F, 0xFD, 0xFE, 0xF2] = .instr (.loc 6 0xfeffd 1 9) [] := by decide
theorem test_decode_locg :
    decode [0xEB, 0x69, 0x1F, 0xFD, 0xFE, 0xE2] = .instr (.locg 6 0xfeffd 1 9) [] := by decide
theorem test_decode_stoc :
    decode [0xEB, 0x69, 0x1F, 0xFD, 0xFE, 0xF3] = .instr (.stoc 6 0xfeffd 1 9) [] := by decide
theorem test_decode_stocg :
    decode [0xEB, 0x69, 0x1F, 0xFD, 0xFE, 0xE3] = .instr (.stocg 6 0xfeffd 1 9) [] := by decide

end Sys2Proof.Tests
end

/-! PROOFS. The frame: an instruction that completes only updates its own destinations (O36, O50); the reset state and the
element ranges (O52, O58). -/

namespace Sys2Proof.Machine

/-! ### What an instruction that completes may have done (10_state.md R36, R37; 20_memory.md R68) -/

/-- The states that `s` can become by drawing free values and by writes to the vector register `vd`, the general register `gd`,
the CC where `cc` is true, and the memory bytes `stored`. -/
inductive Updates (vd : Option VReg) (gd : Option GReg) (cc : Bool) (stored : Option (Addr × Nat)) (s : State) :
    State → Prop
  | refl : Updates vd gd cc stored s s
  | drawn {t : State} : Updates vd gd cc stored s t → Updates vd gd cc stored s t.drawn
  | writeVR {t : State} {r : VReg} (v : V128) (hr : vd = some r) :
      Updates vd gd cc stored s t → Updates vd gd cc stored s (t.writeVR r v)
  | writeGR {t : State} {r : GReg} (v : Word64) (hr : gd = some r) :
      Updates vd gd cc stored s t → Updates vd gd cc stored s (t.writeGR r v)
  | writeCC {t : State} (c : CondCode) (hcc : cc = true) :
      Updates vd gd cc stored s t → Updates vd gd cc stored s (t.writeCC c)
  | store {t : State} (a : Addr) (bs : List Byte) (hst : stored = some (a, bs.length)) :
      Updates vd gd cc stored s t → Updates vd gd cc stored s (t.withMem (t.mem.writeBytes a bs))

namespace Updates

variable {vd : Option VReg} {gd : Option GReg} {cc : Bool} {stored : Option (Addr × Nat)} {s t : State}

/-! Reading a register or the CC draws at most one free value (R44). -/

theorem afterVR (r : VReg) (h : Updates vd gd cc stored s t) : Updates vd gd cc stored s (t.afterVR r) := by
  unfold State.afterVR
  split
  · exact h
  · exact h.drawn

theorem afterGR (r : GReg) (h : Updates vd gd cc stored s t) : Updates vd gd cc stored s (t.afterGR r) := by
  unfold State.afterGR
  split
  · exact h
  · exact h.drawn

theorem afterCC (h : Updates vd gd cc stored s t) : Updates vd gd cc stored s t.afterCC := by
  unfold State.afterCC
  split
  · exact h
  · exact h.drawn

theorem afterBase (b : GReg) (h : Updates vd gd cc stored s t) : Updates vd gd cc stored s (t.afterBase b) := by
  unfold State.afterBase
  split
  · exact h
  · exact h.afterGR b

/-! What every sequence of updates keeps. -/

theorem refusals (h : Updates vd gd cc stored s t) : t.mem.refusals = s.mem.refusals := by
  induction h with
  | refl => rfl
  | drawn _ ih | writeVR _ _ _ ih | writeGR _ _ _ ih | writeCC _ _ _ ih => exact ih
  | store a bs _ _ ih => simpa using ih

theorem params (h : Updates vd gd cc stored s t) : t.params = s.params := by
  induction h with
  | refl => rfl
  | drawn _ ih | writeVR _ _ _ ih | writeGR _ _ _ ih | writeCC _ _ _ ih | store _ _ _ _ ih => exact ih

theorem stream (h : Updates vd gd cc stored s t) : t.stream = s.stream := by
  induction h with
  | refl => rfl
  | drawn _ ih | writeVR _ _ _ ih | writeGR _ _ _ ih | writeCC _ _ _ ih | store _ _ _ _ ih => exact ih

theorem ia (h : Updates vd gd cc stored s t) : t.ia = s.ia := by
  induction h with
  | refl => rfl
  | drawn _ ih | writeVR _ _ _ ih | writeGR _ _ _ ih | writeCC _ _ _ ih | store _ _ _ _ ih => exact ih

theorem wf (h : Updates vd gd cc stored s t) (hs : s.wf = true) : t.wf = true := by
  induction h with
  | refl => exact hs
  | drawn _ ih | writeVR _ _ _ ih | writeGR _ _ _ ih | writeCC _ _ _ ih => exact ih
  | store a bs _ _ ih => exact Mem.wf_writeBytes a bs ih

/-! A register or CC that holds a value goes on holding one (R44). -/

theorem vrHeld {q : VReg} (h : Updates vd gd cc stored s t) (hq : s.vrHeld q = true) : t.vrHeld q = true := by
  induction h with
  | refl => exact hq
  | drawn _ ih | writeGR _ _ _ ih | writeCC _ _ _ ih | store _ _ _ _ ih => exact ih
  | writeVR _ _ _ ih => simp [writeVR_vrHeld, ih]

theorem grHeld {q : GReg} (h : Updates vd gd cc stored s t) (hq : s.grHeld q = true) : t.grHeld q = true := by
  induction h with
  | refl => exact hq
  | drawn _ ih | writeVR _ _ _ ih | writeCC _ _ _ ih | store _ _ _ _ ih => exact ih
  | writeGR _ _ _ ih => simp [writeGR_grHeld, ih]

theorem ccSupplied (h : Updates vd gd cc stored s t) (hs : s.ccSupplied = true) : t.ccSupplied = true := by
  induction h with
  | refl => exact hs
  | drawn _ ih | writeVR _ _ _ ih | writeGR _ _ _ ih | store _ _ _ _ ih => exact ih
  | writeCC _ _ _ _ => rfl

/-! What is no destination stays. -/

theorem vr_of_ne {q : VReg} (h : Updates vd gd cc stored s t) (hq : vd ≠ some q) :
    t.vrAt q = s.vrAt q ∧ t.vrHeld q = s.vrHeld q := by
  induction h with
  | refl => exact ⟨rfl, rfl⟩
  | drawn _ ih | writeGR _ _ _ ih | writeCC _ _ _ ih | store _ _ _ _ ih => exact ih
  | @writeVR t r v hr _ ih =>
    have hne : r ≠ q := by rintro rfl; exact hq hr
    simpa [writeVR_vrAt, writeVR_vrHeld, hne] using ih

theorem gr_of_ne {q : GReg} (h : Updates vd gd cc stored s t) (hq : gd ≠ some q) :
    t.grAt q = s.grAt q ∧ t.grHeld q = s.grHeld q := by
  induction h with
  | refl => exact ⟨rfl, rfl⟩
  | drawn _ ih | writeVR _ _ _ ih | writeCC _ _ _ ih | store _ _ _ _ ih => exact ih
  | @writeGR t r v hr _ ih =>
    have hne : r ≠ q := by rintro rfl; exact hq hr
    simpa [writeGR_grAt, writeGR_grHeld, hne] using ih

theorem cc_of_false (h : Updates vd gd cc stored s t) (hcc : cc = false) :
    t.cc = s.cc ∧ t.ccSupplied = s.ccSupplied := by
  induction h with
  | refl => exact ⟨rfl, rfl⟩
  | drawn _ ih | writeVR _ _ _ ih | writeGR _ _ _ ih | store _ _ _ _ ih => exact ih
  | writeCC _ htrue _ _ => simp [hcc] at htrue

/-- Only a store needs memory in canonical form: without it a write may be shadowed or lost. -/
theorem byteAt_of_outside {a : Addr} (h : Updates vd gd cc stored s t) (hs : stored ≠ none → s.wf = true)
    (ha : OutsideOf stored a) : t.mem.byteAt a = s.mem.byteAt a := by
  induction h with
  | refl => rfl
  | drawn _ ih | writeVR _ _ _ ih | writeGR _ _ _ ih | writeCC _ _ _ ih => exact ih
  | @store t b bs hst ht ih =>
    have hwf : t.wf = true := ht.wf (hs (by simp [hst]))
    calc (t.withMem (t.mem.writeBytes b bs)).mem.byteAt a
        = t.mem.byteAt a := Mem.byteAt_writeBytes_outside hwf b bs a (ha b bs.length hst)
      _ = s.mem.byteAt a := ih

theorem changesOnly (h : Updates vd gd cc stored s t) (hs : stored ≠ none → s.wf = true) :
    ChangesOnly s t vd gd cc stored :=
  ⟨fun _ => h.vr_of_ne, fun _ => h.gr_of_ne, h.cc_of_false, fun _ => h.byteAt_of_outside hs, h.refusals, h.params,
    h.stream, h.ia⟩

end Updates

/-! ### What each shape of instruction does when it completes -/

theorem vectorBinary_next {s t : State} {m : Mnemonic} {v1 v2 v3 : VReg} {m4 : MField} {legal : Bool}
    {f : V128 → V128 → V128} :
    vectorBinary s m v1 v2 v3 m4 legal f = .next t ↔
      s.vrReadable v2 = true ∧ s.vrReadable v3 = true ∧ legal = true ∧
        t = ((s.afterVR v2).afterVR v3).writeVR v1 (f (s.vrValue v2) ((s.afterVR v2).vrValue v3)) := by
  cases legal <;> simp [vectorBinary, readVR_next, eq_comm (b := t)]

theorem vectorLogic_next {s t : State} {v1 v2 v3 : VReg} {f : V128 → V128 → V128} :
    vectorLogic s v1 v2 v3 f = .next t ↔
      s.vrReadable v2 = true ∧ s.vrReadable v3 = true ∧
        t = ((s.afterVR v2).afterVR v3).writeVR v1 (f (s.vrValue v2) ((s.afterVR v2).vrValue v3)) := by
  simp [vectorLogic, readVR_next, eq_comm (b := t)]

theorem vectorUnary_next {s t : State} {m : Mnemonic} {v1 v2 : VReg} {m3 : MField} {maxCode : Nat} {f : V128 → V128} :
    vectorUnary s m v1 v2 m3 maxCode f = .next t ↔
      s.vrReadable v2 = true ∧ m3.toNat ≤ maxCode ∧ t = (s.afterVR v2).writeVR v1 (f (s.vrValue v2)) := by
  by_cases hm : m3.toNat ≤ maxCode <;> simp [vectorUnary, readVR_next, hm, eq_comm (b := t)]

theorem vectorTernary_next {s t : State} {v1 v2 v3 v4 : VReg} {f : V128 → V128 → V128 → V128} :
    vectorTernary s v1 v2 v3 v4 f = .next t ↔
      s.vrReadable v2 = true ∧ s.vrReadable v3 = true ∧ s.vrReadable v4 = true ∧
        t = (((s.afterVR v2).afterVR v3).afterVR v4).writeVR v1
          (f (s.vrValue v2) ((s.afterVR v2).vrValue v3) (((s.afterVR v2).afterVR v3).vrValue v4)) := by
  simp [vectorTernary, readVR_next, eq_comm (b := t)]

/-- `VR[r] <- v` and, where `cs` is true, `CC <- c`: what VCH, VCHL, VPKS and VPKLS write (R233, R320). -/
def State.writeVRAndCC (s : State) (r : VReg) (v : V128) (cs : Bool) (c : CondCode) : State :=
  if cs then (s.writeVR r v).writeCC c else s.writeVR r v

@[simp] theorem writeVRAndCC_vrAt_self (s : State) (r : VReg) (v : V128) (cs : Bool) (c : CondCode) :
    (s.writeVRAndCC r v cs c).vrAt r = v := by
  cases cs <;> simp [State.writeVRAndCC]

@[simp] theorem writeVRAndCC_vrHeld_self (s : State) (r : VReg) (v : V128) (cs : Bool) (c : CondCode) :
    (s.writeVRAndCC r v cs c).vrHeld r = true := by
  cases cs <;> simp [State.writeVRAndCC, writeVR_vrHeld]

@[simp] theorem writeVRAndCC_cc (s : State) (r : VReg) (v : V128) (c : CondCode) :
    (s.writeVRAndCC r v true c).cc = c := rfl

@[simp] theorem writeVRAndCC_ccSupplied (s : State) (r : VReg) (v : V128) (c : CondCode) :
    (s.writeVRAndCC r v true c).ccSupplied = true := rfl

theorem Updates.writeVRAndCC {gd : Option GReg} {stored : Option (Addr × Nat)} {s t : State} {r : VReg} (v : V128)
    (cs : Bool) (c : CondCode) (h : Updates (some r) gd cs stored s t) :
    Updates (some r) gd cs stored s (t.writeVRAndCC r v cs c) := by
  cases cs with
  | false => exact h.writeVR v rfl
  | true => exact (h.writeVR v rfl).writeCC c rfl

theorem packSaturate_next {s t : State} {m : Mnemonic} {v1 v2 v3 : VReg} {m4 m5 : MField} {src dst : Sign} {xs : List Int}
    (hxs : xs = packSources src (s.vrValue v2) ((s.afterVR v2).vrValue v3) (width m4)) :
    packSaturate s m v1 v2 v3 m4 m5 src dst = .next t ↔
      s.vrReadable v2 = true ∧ s.vrReadable v3 = true ∧ packLegal m4 = true ∧
        t = ((s.afterVR v2).afterVR v3).writeVRAndCC v1 (packElems (width m4) (some dst) xs) (csBit m5)
          (packCC (saturatedCount (width m4) dst xs) xs.length) := by
  subst hxs
  by_cases hl : packLegal m4 = true <;>
    simp [packSaturate, readVR_next, hl, State.writeVRAndCC, eq_comm (b := t)]

theorem compareHigh_next {s t : State} {m : Mnemonic} {v1 v2 v3 : VReg} {m4 m5 : MField} {sg : Sign} {a b : V128}
    (ha : a = s.vrValue v2) (hb : b = (s.afterVR v2).vrValue v3) :
    compareHigh s m v1 v2 v3 m4 m5 sg = .next t ↔
      s.vrReadable v2 = true ∧ s.vrReadable v3 = true ∧ m4.toNat ≤ 3 ∧
        t = ((s.afterVR v2).afterVR v3).writeVRAndCC v1
          (laneApply (highMask (width m4)) a b (width m4) sg .full .same) (csBit m5)
          (compareCC (highCount sg a b (width m4)) (elemCount (width m4))) := by
  subst ha hb
  by_cases hl : m4.toNat ≤ 3 <;>
    simp [compareHigh, readVR_next, hl, State.writeVRAndCC, eq_comm (b := t)]

/-! ### Each instruction updates only its destinations -/

section
variable {s t : State} {m : Mnemonic}

theorem vectorBinary_updates {v1 v2 v3 : VReg} {m4 : MField} {legal : Bool} {f : V128 → V128 → V128}
    (h : vectorBinary s m v1 v2 v3 m4 legal f = .next t) : Updates (some v1) none false none s t := by
  obtain ⟨-, -, -, rfl⟩ := vectorBinary_next.1 h
  exact ((Updates.refl.afterVR v2).afterVR v3).writeVR _ rfl

theorem vectorLogic_updates {v1 v2 v3 : VReg} {f : V128 → V128 → V128} (h : vectorLogic s v1 v2 v3 f = .next t) :
    Updates (some v1) none false none s t := by
  obtain ⟨-, -, rfl⟩ := vectorLogic_next.1 h
  exact ((Updates.refl.afterVR v2).afterVR v3).writeVR _ rfl

theorem vectorUnary_updates {v1 v2 : VReg} {m3 : MField} {maxCode : Nat} {f : V128 → V128}
    (h : vectorUnary s m v1 v2 m3 maxCode f = .next t) : Updates (some v1) none false none s t := by
  obtain ⟨-, -, rfl⟩ := vectorUnary_next.1 h
  exact (Updates.refl.afterVR v2).writeVR _ rfl

theorem laneBinary_updates {v1 v2 v3 : VReg} {m4 : MField} {maxCode : Nat} {op : Int → Int → Int} {sg : Sign}
    {rg : ElementRange} {ow : OutWidth} (h : laneBinary s m v1 v2 v3 m4 maxCode op sg rg ow = .next t) :
    Updates (some v1) none false none s t :=
  vectorBinary_updates h

theorem unpack_updates {v1 v2 : VReg} {m3 : MField} {sg : Sign} {rg : ElementRange}
    (h : unpack s m v1 v2 m3 sg rg = .next t) : Updates (some v1) none false none s t :=
  vectorUnary_updates h

theorem vectorTernary_updates {v1 v2 v3 v4 : VReg} {f : V128 → V128 → V128 → V128}
    (h : vectorTernary s v1 v2 v3 v4 f = .next t) : Updates (some v1) none false none s t := by
  obtain ⟨-, -, -, rfl⟩ := vectorTernary_next.1 h
  exact (((Updates.refl.afterVR v2).afterVR v3).afterVR v4).writeVR _ rfl

theorem packSaturate_updates {v1 v2 v3 : VReg} {m4 m5 : MField} {src dst : Sign}
    (h : packSaturate s m v1 v2 v3 m4 m5 src dst = .next t) : Updates (some v1) none (csBit m5) none s t := by
  obtain ⟨-, -, -, rfl⟩ := (packSaturate_next rfl).1 h
  exact ((Updates.refl.afterVR v2).afterVR v3).writeVRAndCC _ _ _

theorem compareHigh_updates {v1 v2 v3 : VReg} {m4 m5 : MField} {sg : Sign}
    (h : compareHigh s m v1 v2 v3 m4 m5 sg = .next t) : Updates (some v1) none (csBit m5) none s t := by
  obtain ⟨-, -, -, rfl⟩ := (compareHigh_next rfl rfl).1 h
  exact ((Updates.refl.afterVR v2).afterVR v3).writeVRAndCC _ _ _

theorem execVrep_updates {v1 v3 : VReg} {i2 : BitVec 16} {m4 : MField} (h : execVrep v1 v3 i2 m4 s = .next t) :
    Updates (some v1) none false none s t := by
  obtain ⟨-, h⟩ := readVR_next.1 h
  split_ifs at h
  · simp at h
  · simp at h
  · cases h
    exact (Updates.refl.afterVR v3).writeVR _ rfl

theorem execVrepi_updates {v1 : VReg} {i2 : BitVec 16} {m3 : MField} (h : execVrepi v1 i2 m3 s = .next t) :
    Updates (some v1) none false none s t := by
  unfold execVrepi at h
  split_ifs at h
  · simp at h
  · cases h
    exact Updates.refl.writeVR _ rfl

theorem gather_updates {w : Nat} {v1 v2 : VReg} {d2 : BitVec 12} {b2 : GReg} {m3 : MField}
    (h : gather s m w v1 d2 v2 b2 m3 = .next t) : Updates (some v1) none false none s t := by
  simp only [gather, readVR_next, readBase_next] at h
  obtain ⟨-, -, -, h⟩ := h
  split_ifs at h
  · simp at h
  · obtain ⟨-, h⟩ := memRead_next.1 h
    cases h
    exact (((Updates.refl.afterVR v1).afterBase b2).afterVR v2).writeVR _ rfl

theorem scatter_updates {w : Nat} {v1 v2 : VReg} {d2 : BitVec 12} {b2 : GReg} {m3 : MField}
    (h : scatter s m w v1 d2 v2 b2 m3 = .next t) :
    Updates none none false
      (some (vrvAddress ((s.afterVR v1).baseValue b2) d2 (((s.afterVR v1).afterBase b2).vrValue v2) w m3, w)) s t := by
  simp only [scatter, readVR_next, readBase_next] at h
  obtain ⟨-, -, -, h⟩ := h
  split_ifs at h
  · simp at h
  · obtain ⟨-, rfl⟩ := memWrite_next.1 h
    exact (((Updates.refl.afterVR v1).afterBase b2).afterVR v2).store _ _ (by simp)

/-- The two ways VLL's destination is prepared: V1 was read, or it was not (R296). -/
theorem readTail_next {v1 : VReg} {len : Nat} {k : V128 → State → Result} (h : readTail s v1 len k = .next t) :
    k (s.vrValue v1) (s.afterVR v1) = .next t ∨ k 0#128 s = .next t := by
  unfold readTail at h
  split at h
  · split at h
    · exact .inl (readVR_next.1 h).2
    · exact .inr h
  · exact .inr h

theorem execVll_updates {v1 : VReg} {r3 b2 : GReg} {d2 : BitVec 12} (h : execVll v1 r3 d2 b2 s = .next t) :
    Updates (some v1) none false none s t := by
  simp only [execVll, readGR_next, readBase_next] at h
  obtain ⟨-, -, h⟩ := h
  have hread : Updates (some v1) none false none s ((s.afterGR r3).afterBase b2) :=
    (Updates.refl.afterGR r3).afterBase b2
  rcases readTail_next h with h | h
  · obtain ⟨-, h⟩ := memRead_next.1 h
    cases h
    exact (hread.afterVR v1).writeVR _ rfl
  · obtain ⟨-, h⟩ := memRead_next.1 h
    cases h
    exact hread.writeVR _ rfl

theorem execVstl_updates {v1 : VReg} {r3 b2 : GReg} {d2 : BitVec 12} (h : execVstl v1 r3 d2 b2 s = .next t) :
    Updates none none false (some (vrsAddress ((s.afterGR r3).baseValue b2) d2, boundedLength (s.grValue r3))) s t := by
  simp only [execVstl, readGR_next, readBase_next, readVR_next] at h
  obtain ⟨-, -, -, h⟩ := h
  obtain ⟨-, rfl⟩ := memWrite_next.1 h
  exact (((Updates.refl.afterGR r3).afterBase b2).afterVR v1).store _ _ (by simp)

theorem execLcbb_updates {r1 x2 b2 : GReg} {d2 : BitVec 12} {m3 : MField} (h : execLcbb r1 d2 x2 b2 m3 s = .next t) :
    Updates none (some r1) true none s t := by
  simp only [execLcbb, readGR_next, readBase_next] at h
  obtain ⟨-, -, -, h⟩ := h
  split_ifs at h
  · simp at h
  · cases h
    exact ((((Updates.refl.afterBase x2).afterBase b2).afterGR r1).writeGR _ rfl).writeCC _ rfl

theorem execLocr_updates {r1 r2 : GReg} {m3 : MField} (h : execLocr r1 r2 m3 s = .next t) :
    Updates none (some r1) false none s t := by
  obtain ⟨-, h⟩ := readCC_next.1 h
  split_ifs at h
  · simp only [readGR_next] at h
    obtain ⟨-, -, h⟩ := h
    cases h
    exact ((Updates.refl.afterCC.afterGR r1).afterGR r2).writeGR _ rfl
  · cases h
    exact Updates.refl.afterCC

theorem execLocgr_updates {r1 r2 : GReg} {m3 : MField} (h : execLocgr r1 r2 m3 s = .next t) :
    Updates none (some r1) false none s t := by
  obtain ⟨-, h⟩ := readCC_next.1 h
  split_ifs at h
  · obtain ⟨-, h⟩ := readGR_next.1 h
    cases h
    exact (Updates.refl.afterCC.afterGR r2).writeGR _ rfl
  · cases h
    exact Updates.refl.afterCC

theorem Updates.falseAccess {vd : Option VReg} {gd : Option GReg} {cc : Bool} {stored : Option (Addr × Nat)} {u : State}
    {dir : Direction} {a : Addr} {n : Nat} (hu : Updates vd gd cc stored s u)
    (h : Machine.falseAccess u m dir a n = .next t) : Updates vd gd cc stored s t := by
  rcases falseAccess_next h with rfl | rfl
  · exact hu
  · exact hu.drawn

theorem execLoc_updates {r1 b2 : GReg} {d2 : BitVec 20} {m3 : MField} (h : execLoc r1 d2 b2 m3 s = .next t) :
    Updates none (some r1) false none s t := by
  simp only [execLoc, readBase_next, readCC_next] at h
  obtain ⟨-, -, h⟩ := h
  have hread : Updates none (some r1) false none s (s.afterBase b2).afterCC := (Updates.refl.afterBase b2).afterCC
  split_ifs at h
  · simp only [readGR_next, memRead_next] at h
    obtain ⟨-, -, h⟩ := h
    cases h
    exact (hread.afterGR r1).writeGR _ rfl
  · exact hread.falseAccess h

theorem execLocg_updates {r1 b2 : GReg} {d2 : BitVec 20} {m3 : MField} (h : execLocg r1 d2 b2 m3 s = .next t) :
    Updates none (some r1) false none s t := by
  simp only [execLocg, readBase_next, readCC_next] at h
  obtain ⟨-, -, h⟩ := h
  have hread : Updates none (some r1) false none s (s.afterBase b2).afterCC := (Updates.refl.afterBase b2).afterCC
  split_ifs at h
  · obtain ⟨-, h⟩ := memRead_next.1 h
    cases h
    exact hread.writeGR _ rfl
  · exact hread.falseAccess h

theorem execStoc_updates {r1 b2 : GReg} {d2 : BitVec 20} {m3 : MField} (h : execStoc r1 d2 b2 m3 s = .next t) :
    Updates none none false (storedTo (.stoc r1 d2 b2 m3) s) s t := by
  simp only [execStoc, readBase_next, readCC_next] at h
  obtain ⟨-, -, h⟩ := h
  split_ifs at h with hc
  · simp only [readGR_next, memWrite_next] at h
    obtain ⟨-, -, rfl⟩ := h
    exact ((Updates.refl.afterBase b2).afterCC.afterGR r1).store _ _ (by simp [storedTo, hc])
  · exact (Updates.refl.afterBase b2).afterCC.falseAccess h

theorem execStocg_updates {r1 b2 : GReg} {d2 : BitVec 20} {m3 : MField} (h : execStocg r1 d2 b2 m3 s = .next t) :
    Updates none none false (storedTo (.stocg r1 d2 b2 m3) s) s t := by
  simp only [execStocg, readBase_next, readCC_next] at h
  obtain ⟨-, -, h⟩ := h
  split_ifs at h with hc
  · simp only [readGR_next, memWrite_next] at h
    obtain ⟨-, -, rfl⟩ := h
    exact ((Updates.refl.afterBase b2).afterCC.afterGR r1).store _ _ (by simp [storedTo, hc])
  · exact (Updates.refl.afterBase b2).afterCC.falseAccess h

end

/-- An instruction that completes has drawn and written to its own destinations, and nothing else. -/
theorem exec_updates {i : Instr} {s t : State} (h : exec i s = .next t) :
    Updates (vrDest i) (grDest i) (setsCC i) (storedTo i s) s t := by
  cases i with dsimp only [exec] at h
  | va | vs | vavg | vavgl | vmx | vmxl | vmn | vmnl | vml | vmh | vmlh | vme | vmle | vmo | vmlo =>
    exact laneBinary_updates h
  | vpk | vmrh | vmrl => exact vectorBinary_updates h
  | vn | vnc | vo | vno | vx | vpdi => exact vectorLogic_updates h
  | vlc | vlp | vpopct | vclz | vctz => exact vectorUnary_updates h
  | vuph | vupl | vuplh | vupll => exact unpack_updates h
  | vpks | vpkls => exact packSaturate_updates h
  | vch | vchl => exact compareHigh_updates h
  | vperm | vsel => exact vectorTernary_updates h
  | vrep => exact execVrep_updates h
  | vrepi => exact execVrepi_updates h
  | vgef | vgeg => exact gather_updates h
  | vscef | vsceg => exact scatter_updates h
  | vll => exact execVll_updates h
  | vstl => exact execVstl_updates h
  | lcbb => exact execLcbb_updates h
  | locr => exact execLocr_updates h
  | locgr => exact execLocgr_updates h
  | loc => exact execLoc_updates h
  | locg => exact execLocg_updates h
  | stoc => exact execStoc_updates h
  | stocg => exact execStocg_updates h

/-! ### The frame of an instruction and of a step -/

/-- Settles O36: an instruction that completes is a sequence of updates of its own destinations (`exec_updates`), and each
clause of `ChangesOnly` is kept by every such update. -/
theorem instructionFrame : Obligations.InstructionFrame :=
  fun _ _ _ hwf h => (exec_updates h).changesOnly fun _ => hwf

/-- Settles O50: the step's instruction only updates, no update changes a parameter or a refusal or takes a value away, and
the advance to the next instruction changes neither. -/
theorem stepKeepsParametersAndHeldRegisters : Obligations.StepKeepsParametersAndHeldRegisters := by
  intro s t h
  obtain ⟨i, rest, u, -, hexec, rfl⟩ := step_next.1 h
  have hu := exec_updates hexec
  exact ⟨hu.params, hu.refusals, fun _ => hu.vrHeld, fun _ => hu.grHeld, hu.ccSupplied⟩

/-! ### The reset state and the element ranges -/

/-- Settles O52: the reset state is a record of constants. -/
theorem resetSuppliesZeros : Obligations.ResetSuppliesZeros := by
  refine ⟨⟨fun r => ?_, fun r => ?_, rfl⟩, fun r => ?_, fun r => ?_, rfl, rfl, rfl⟩
  · simp [State.vrHeld, State.reset]
  · simp [State.grHeld, State.reset]
  · simp [State.vrAt, State.reset]
  · simp [State.grAt, State.reset]

/-- Settles O58: the five element counts are those of the five widths, for which the ranges are known. -/
theorem elementRangeIndices : Obligations.ElementRangeIndices := by
  intro n hn
  obtain ⟨w, hw, rfl⟩ : ∃ w, IsWidth w ∧ n = elemCount w := by
    simp only [List.mem_cons, List.not_mem_nil, or_false] at hn
    rcases hn with rfl | rfl | rfl | rfl | rfl
    exacts [⟨16, by simp [IsWidth], rfl⟩, ⟨8, by simp [IsWidth], rfl⟩, ⟨4, by simp [IsWidth], rfl⟩,
      ⟨2, by simp [IsWidth], rfl⟩, ⟨1, by simp [IsWidth], rfl⟩]
  refine ⟨rangeIndices_full hw, fun hcount => ?_⟩
  have hw' : w = 1 ∨ w = 2 ∨ w = 4 ∨ w = 8 := by
    rcases hw with rfl | rfl | rfl | rfl | rfl <;> simp [elemCount] at hcount ⊢
  exact ⟨rangeIndices_low hw', rangeIndices_high hw, rangeIndices_even hw', rangeIndices_odd hw'⟩

end Sys2Proof.Machine

/-! PROOFS. Saturation, the packs and their round trip with the unpacks (O12, O13, O15). -/

namespace Sys2Proof.Machine

/-! ### Lanes as integers and saturation (00_scope.md R9, R15) -/

/-- A bit vector as an integer, read per `k` (R9). -/
def Sign.value {n : Nat} (k : Sign) (x : BitVec n) : Int :=
  match k with
  | .signed => x.toInt
  | .unsigned => x.toNat

theorem readElem_eq_value (k : Sign) (v : V128) (w i : Nat) : readElem k v w i = k.value (elem v w i) := by
  cases k <;> rfl

theorem ofInt_value {n : Nat} (k : Sign) (x : BitVec n) : BitVec.ofInt n (k.value x) = x := by
  cases k with
  | signed => exact BitVec.ofInt_toInt
  | unsigned => simp [Sign.value, BitVec.ofInt_natCast]

/-- The least integer of `n` bits read per `k` (R15). -/
def Sign.minValue (k : Sign) (n : Nat) : Int :=
  match k with
  | .signed => -2 ^ (n - 1)
  | .unsigned => 0

/-- The greatest integer of `n` bits read per `k` (R15). -/
def Sign.maxValue (k : Sign) (n : Nat) : Int :=
  match k with
  | .signed => 2 ^ (n - 1) - 1
  | .unsigned => 2 ^ n - 1

/-- `x` lies in the range of `n` bits read per `k`. -/
def Sign.Fits (k : Sign) (n : Nat) (x : Int) : Prop := k.minValue n ≤ x ∧ x ≤ k.maxValue n

theorem Sign.minValue_le_maxValue (k : Sign) (n : Nat) : k.minValue n ≤ k.maxValue n := by
  have hpos : ∀ m : Nat, (0 : Int) < 2 ^ m := fun m => by positivity
  cases k with
  | signed => have := hpos (n - 1); simp only [minValue, maxValue]; omega
  | unsigned => have := hpos n; simp only [minValue, maxValue]; omega

theorem sat_eq_clamp (x : Int) (k : Sign) (n : Nat) : sat x k n = min (max x (k.minValue n)) (k.maxValue n) := by
  cases k <;> rfl

theorem sat_eq_max_min (x : Int) (k : Sign) (n : Nat) : sat x k n = max (k.minValue n) (min x (k.maxValue n)) := by
  have := k.minValue_le_maxValue n
  rw [sat_eq_clamp]
  omega

theorem fits_sat (x : Int) (k : Sign) (n : Nat) : k.Fits n (sat x k n) := by
  have := k.minValue_le_maxValue n
  rw [sat_eq_clamp, Sign.Fits]
  omega

theorem sat_eq_self_iff {x : Int} {k : Sign} {n : Nat} : sat x k n = x ↔ k.Fits n x := by
  have := k.minValue_le_maxValue n
  rw [sat_eq_clamp, Sign.Fits]
  omega

theorem not_fits_iff {x : Int} {k : Sign} {n : Nat} : ¬ k.Fits n x ↔ x < k.minValue n ∨ k.maxValue n + 1 ≤ x := by
  rw [Sign.Fits]
  omega

theorem sat_unsigned_natCast (x n : Nat) : sat x .unsigned n = (min x (2 ^ n - 1) : Nat) := by
  have hpos : (0 : Int) < 2 ^ n := by positivity
  have hcast : ((2 ^ n - 1 : Nat) : Int) = 2 ^ n - 1 := by push_cast [Nat.one_le_two_pow (n := n)]; rfl
  rw [sat_eq_max_min, Nat.cast_min, hcast]
  simp only [Sign.minValue, Sign.maxValue]
  omega

theorem not_fits_unsigned_natCast {x n : Nat} : ¬ Sign.unsigned.Fits n x ↔ 2 ^ n ≤ x := by
  have hcast : ((2 ^ n : Nat) : Int) = 2 ^ n := by push_cast; rfl
  simp only [not_fits_iff, Sign.minValue, Sign.maxValue]
  omega

theorem saturated_iff {x : Int} {k : Sign} {n : Nat} : saturated x k n = true ↔ ¬ k.Fits n x := by
  rw [← sat_eq_self_iff]
  simp [saturated]

theorem fits_value {n : Nat} (k : Sign) (x : BitVec n) : k.Fits n (k.value x) := by
  cases k with
  | signed => exact ⟨BitVec.le_toInt x, Int.le_sub_one_of_lt BitVec.toInt_lt⟩
  | unsigned =>
    have hlt : (x.toNat : Int) < 2 ^ n := by exact_mod_cast x.isLt
    exact ⟨Int.natCast_nonneg _, Int.le_sub_one_of_lt hlt⟩

theorem value_ofInt {n : Nat} {k : Sign} {x : Int} (hn : 0 < n) (h : k.Fits n x) : k.value (BitVec.ofInt n x) = x := by
  obtain ⟨hmin, hmax⟩ := h
  cases k with
  | signed => exact BitVec.toInt_ofInt_eq_self hn hmin (Int.lt_of_le_sub_one hmax)
  | unsigned =>
    have hlt : x < 2 ^ n := Int.lt_of_le_sub_one hmax
    simp only [Sign.value, BitVec.toNat_ofInt]
    rw [Int.emod_eq_of_lt hmin (by exact_mod_cast hlt), Int.toNat_of_nonneg hmin]

/-- A value keeps fitting in a wider lane; an unsigned one even where the wider lane is signed. -/
theorem Sign.Fits.widen {k src : Sign} {n m : Nat} {x : Int} (h : k.Fits n x) (hnm : n < m)
    (hsrc : k = .signed → src = .signed) : src.Fits m x := by
  have hpow : ∀ {i j : Nat}, i ≤ j → (2 : Int) ^ i ≤ 2 ^ j := fun hij => pow_le_pow_right₀ (by norm_num) hij
  have h1 := hpow (show n - 1 ≤ m - 1 by omega)
  have h2 := hpow (show n ≤ m - 1 by omega)
  have h3 := hpow (show n ≤ m by omega)
  cases k with
  | signed =>
    rw [hsrc rfl]
    simp only [Fits, minValue, maxValue] at h ⊢
    omega
  | unsigned =>
    cases src <;> simp only [Fits, minValue, maxValue] at h ⊢ <;> omega

/-- Narrowing after widening is narrowing. -/
theorem ofInt_toNat_ofInt {n m : Nat} (hnm : n ≤ m) (x : Int) :
    BitVec.ofInt n ((BitVec.ofInt m x).toNat : Int) = BitVec.ofInt n x := by
  apply BitVec.eq_of_toNat_eq
  have hpos : (0 : Int) < 2 ^ m := by positivity
  have hdvd : (2 : Int) ^ n ∣ 2 ^ m := pow_dvd_pow 2 hnm
  simp only [BitVec.toNat_ofInt, Nat.cast_pow, Nat.cast_ofNat]
  rw [Int.toNat_of_nonneg (Int.emod_nonneg _ hpos.ne'), Int.emod_emod_of_dvd _ hdvd]

/-! ### The packs (43_pack_unpack.md R228, R231 to R233) -/

/-- The widths that a pack reads: halfword, word and doubleword. -/
def IsPackWidth (w : Nat) : Prop := w = 2 ∨ w = 4 ∨ w = 8

theorem isPackWidth_width {m4 : MField} (h : packLegal m4 = true) : IsPackWidth (width m4) := by
  simp only [packLegal, Bool.and_eq_true, decide_eq_true_eq] at h
  obtain ⟨h1, h3⟩ := h
  unfold width
  interval_cases m4.toNat <;> simp [IsPackWidth]

theorem packLegal_of_bounds {m4 : MField} (h1 : 1 ≤ m4.toNat) (h3 : m4.toNat ≤ 3) : packLegal m4 = true := by
  simp [packLegal, h1, h3]

namespace IsPackWidth

variable {w : Nat}

theorem half_mul (hw : IsPackWidth w) : 8 * (w / 2) * (2 * elemCount w) = 128 := by
  rcases hw with rfl | rfl | rfl <;> rfl

theorem half_bits (hw : IsPackWidth w) : 8 * (w / 2) = 4 * w := by
  rcases hw with rfl | rfl | rfl <;> rfl

theorem half_bits_pos (hw : IsPackWidth w) : 0 < 8 * (w / 2) := by
  rcases hw with rfl | rfl | rfl <;> decide

theorem elemCount_pos (hw : IsPackWidth w) : 0 < elemCount w := by
  rcases hw with rfl | rfl | rfl <;> decide

end IsPackWidth

@[simp] theorem length_packSources (k : Sign) (a b : V128) (w : Nat) :
    (packSources k a b w).length = 2 * elemCount w := by
  simp [packSources, Nat.two_mul]

theorem getElem_packSources (k : Sign) (a b : V128) (w j : Nat) (hj : j < (packSources k a b w).length) :
    (packSources k a b w)[j] = k.value (packSource a b w j) := by
  unfold packSource
  split <;> rename_i h <;> simp [packSources, List.getElem_append, h, readElem_eq_value]

theorem elem_ofElems_half {w : Nat} (hw : IsPackWidth w) (f : Int → BitVec (8 * (w / 2))) (xs : List Int)
    (hxs : xs.length = 2 * elemCount w) (j : Nat) (hj : j < xs.length) :
    elem (ofElems (w / 2) (xs.map f)) (w / 2) j = f xs[j] := by
  rw [elem_ofElems _ _ j (by simpa using hj) (by simp [hxs, hw.half_mul]), List.getElem_map]

theorem elem_packElems_saturate {w : Nat} (hw : IsPackWidth w) (k : Sign) (xs : List Int) (hxs : xs.length = 2 * elemCount w)
    (j : Nat) (hj : j < xs.length) :
    elem (packElems w (some k) xs) (w / 2) j = BitVec.ofInt (8 * (w / 2)) (sat xs[j] k (8 * (w / 2))) :=
  elem_ofElems_half hw _ xs hxs j hj

theorem elem_packElems_truncate {w : Nat} (hw : IsPackWidth w) (xs : List Int) (hxs : xs.length = 2 * elemCount w)
    (j : Nat) (hj : j < xs.length) :
    elem (packElems w none xs) (w / 2) j = BitVec.ofInt (8 * (w / 2)) xs[j] :=
  elem_ofElems_half hw _ xs hxs j hj

/-- Read back as its kind, each packed element is the saturated source element (R231, R232). -/
theorem value_elem_packElems {w : Nat} (hw : IsPackWidth w) (src dst : Sign) (a b : V128) (j : Nat)
    (hj : j < 2 * elemCount w) :
    dst.value (elem (packElems w (some dst) (packSources src a b w)) (w / 2) j) =
      sat (src.value (packSource a b w j)) dst (8 * (w / 2)) := by
  rw [elem_packElems_saturate hw dst _ (length_packSources ..) j (by simpa using hj), getElem_packSources]
  exact value_ofInt hw.half_bits_pos (fits_sat ..)

theorem saturatedCount_eq_zero_iff {w : Nat} {k : Sign} {xs : List Int} :
    saturatedCount w k xs = 0 ↔ ∀ x ∈ xs, k.Fits (8 * (w / 2)) x := by
  simp [saturatedCount, saturated_iff]

theorem saturatedCount_eq_length_iff {w : Nat} {k : Sign} {xs : List Int} :
    saturatedCount w k xs = xs.length ↔ ∀ x ∈ xs, ¬ k.Fits (8 * (w / 2)) x := by
  simp [saturatedCount, saturated_iff]

/-- The CC of a saturating pack counts the elements that do not fit (R233). -/
theorem ccCounts_packCC {w : Nat} {k : Sign} {xs : List Int} {out : Nat → Prop} (hxs : xs ≠ [])
    (hout : ∀ j (hj : j < xs.length), out j ↔ ¬ k.Fits (8 * (w / 2)) xs[j]) :
    CCCounts (packCC (saturatedCount w k xs) xs.length) xs.length out := by
  have hpos : 0 < xs.length := List.length_pos_of_ne_nil hxs
  refine ⟨fun hnone => ?_, fun hall => ?_, fun ⟨p, hp, hout_p⟩ ⟨q, hq, hin_q⟩ => ?_⟩
  · have h0 : saturatedCount w k xs = 0 := by
      rw [saturatedCount_eq_zero_iff, List.forall_mem_iff_getElem]
      intro j hj
      simpa [hout j hj] using hnone j hj
    simp [packCC, h0]
  · have hlen : saturatedCount w k xs = xs.length := by
      rw [saturatedCount_eq_length_iff, List.forall_mem_iff_getElem]
      intro j hj
      exact (hout j hj).1 (hall j hj)
    simp [packCC, hlen, hpos.ne']
  · have h0 : saturatedCount w k xs ≠ 0 := fun h0 =>
      (hout p hp).1 hout_p (saturatedCount_eq_zero_iff.1 h0 _ (List.getElem_mem hp))
    have hlen : saturatedCount w k xs ≠ xs.length := fun hlen =>
      hin_q ((hout q hq).2 (saturatedCount_eq_length_iff.1 hlen _ (List.getElem_mem hq)))
    simp [packCC, h0, hlen]

/-- What a saturating pack does, in terms of its source elements: each is saturated, and the CC counts those that do not
fit. -/
theorem writesFromTwo_of_packSaturate {i : Instr} {s : State} {m : Mnemonic} {v1 v2 v3 : VReg} {m4 m5 : MField}
    {src dst : Sign} {P : V128 → V128 → V128 → Prop} {Q : V128 → V128 → CondCode → Prop}
    (hexec : exec i s = packSaturate s m v1 v2 v3 m4 m5 src dst) (hm : packLegal m4 = true)
    (h2 : s.vrReadable v2 = true) (h3 : s.vrReadable v3 = true)
    (hP : ∀ a b r, (∀ j, j < 2 * elemCount (width m4) → dst.value (elem r (width m4 / 2) j) =
      sat (src.value (packSource a b (width m4) j)) dst (8 * (width m4 / 2))) → P a b r)
    (hQ : ∀ a b cc, CCCounts cc (2 * elemCount (width m4))
      (fun j => ¬ dst.Fits (8 * (width m4 / 2)) (src.value (packSource a b (width m4) j))) → Q a b cc) :
    WritesFromTwo i s v1 v2 v3 P (csBit m5) Q := by
  have hw := isPackWidth_width hm
  have hnext := hexec.trans ((packSaturate_next rfl).2 ⟨h2, h3, hm, rfl⟩)
  have hframe := packSaturate_updates (hexec.symm.trans hnext)
  refine ⟨_, hnext, hP _ _ _ ?_, writeVRAndCC_vrHeld_self .., fun hcs => ?_, hframe.changesOnly (by simp)⟩
  · intro j hj
    rw [writeVRAndCC_vrAt_self]
    exact value_elem_packElems hw src dst _ _ j hj
  · rw [hcs]
    refine ⟨hQ _ _ _ ?_, writeVRAndCC_ccSupplied ..⟩
    rw [writeVRAndCC_cc, ← length_packSources src]
    refine ccCounts_packCC (List.ne_nil_of_length_pos ?_) fun j hj => ?_
    · simpa using hw.elemCount_pos
    · rw [getElem_packSources]

/-! ### VPKS and VPKLS -/

/-- Settles O12: a signed range of `4 * w` bits is `Sign.signed.Fits`, and VPKS is the signed pack. -/
theorem signedPackSaturates : Obligations.SignedPackSaturates := by
  intro s v1 v2 v3 m4 m5 h1 h3 hv2 hv3
  have hm := packLegal_of_bounds h1 h3
  have hbits := (isPackWidth_width hm).half_bits
  refine writesFromTwo_of_packSaturate (src := .signed) (dst := .signed) rfl hm hv2 hv3 ?_ ?_
  · intro a b r hr j hj
    rw [← hbits]
    exact (hr j hj).trans (sat_eq_max_min ..)
  · intro a b cc hcc
    simpa only [not_fits_iff, Sign.minValue, Sign.maxValue, Sign.value, hbits, Int.sub_add_cancel] using hcc

/-- Settles O13: VPKLS is the unsigned pack; under either PKLS_SRC its source elements are read as that parameter says. -/
theorem logicalPackSaturates : Obligations.LogicalPackSaturates := by
  intro s v1 v2 v3 m4 m5 h1 h3 hv2 hv3
  have hm := packLegal_of_bounds h1 h3
  have hbits := (isPackWidth_width hm).half_bits
  refine ⟨fun hsrc => ?_, fun hsrc => ?_⟩
  · have hexec : exec (.vpkls v1 v2 v3 m4 m5) s = packSaturate s .vpkls v1 v2 v3 m4 m5 .signed .unsigned := by
      simp [exec, execVpkls, hsrc, pklsSign]
    refine writesFromTwo_of_packSaturate hexec hm hv2 hv3 ?_ ?_
    · intro a b r hr j hj
      rw [← hbits]
      exact (hr j hj).trans (sat_eq_max_min ..)
    · intro a b cc hcc
      simpa only [not_fits_iff, Sign.minValue, Sign.maxValue, Sign.value, hbits, Int.sub_add_cancel] using hcc
  · have hexec : exec (.vpkls v1 v2 v3 m4 m5) s = packSaturate s .vpkls v1 v2 v3 m4 m5 .unsigned .unsigned := by
      simp [exec, execVpkls, hsrc, pklsSign]
    refine writesFromTwo_of_packSaturate hexec hm hv2 hv3 ?_ ?_
    · intro a b r hr j hj
      rw [← hbits]
      exact Int.ofNat_inj.1 ((hr j hj).trans (sat_unsigned_natCast ..))
    · intro a b cc hcc
      simpa only [Sign.value, not_fits_unsigned_natCast, hbits] using hcc

/-! ### Unpacking and packing again (43_pack_unpack.md R229, R238) -/

/-- The halves of `a`, each element widened: what VUPH and VUPL (or VUPLH and VUPLL) leave (R229). -/
def unpackedHalf (k : Sign) (a : V128) (n : Nat) (rg : ElementRange) : V128 :=
  laneApply1 (fun x => x) a n k rg .widened

theorem execVpk_next {s t : State} {v1 v2 v3 : VReg} {m4 : MField} :
    execVpk v1 v2 v3 m4 s = .next t ↔
      s.vrReadable v2 = true ∧ s.vrReadable v3 = true ∧ packLegal m4 = true ∧
        t = ((s.afterVR v2).afterVR v3).writeVR v1
          (packElems (width m4) none (packSources .unsigned (s.vrValue v2) ((s.afterVR v2).vrValue v3) (width m4))) :=
  vectorBinary_next

theorem unpack_next {s t : State} {m : Mnemonic} {v1 v2 : VReg} {m3 : MField} {k : Sign} {rg : ElementRange} :
    unpack s m v1 v2 m3 k rg = .next t ↔
      s.vrReadable v2 = true ∧ m3.toNat ≤ 2 ∧ t = (s.afterVR v2).writeVR v1 (unpackedHalf k (s.vrValue v2) (width m3) rg) :=
  vectorUnary_next

namespace IsNarrow

variable {n : Nat}

theorem isPackWidth_double (hn : IsNarrow n) : IsPackWidth (2 * n) := by
  rcases hn with rfl | rfl | rfl <;> simp [IsPackWidth]

theorem elemCount_half (hn : IsNarrow n) : elemCount n / 2 = elemCount (2 * n) := by
  rcases hn with rfl | rfl | rfl <;> rfl

theorem elemCount_eq (hn : IsNarrow n) : elemCount n = 2 * elemCount (2 * n) := by
  rcases hn with rfl | rfl | rfl <;> rfl

theorem pos (hn : IsNarrow n) : 0 < n := by
  rcases hn with rfl | rfl | rfl <;> decide

end IsNarrow

theorem isNarrow_width {m3 : MField} (h : m3.toNat ≤ 2) : IsNarrow (width m3) := by
  unfold width
  interval_cases m3.toNat <;> simp [IsNarrow]

/-- The two unpacked halves, one after the other, are the elements of `a` in order, widened (R228, R229). -/
theorem packSource_unpackedHalf {n : Nat} (hn : IsNarrow n) (k : Sign) (a : V128) (j : Nat) (hj : j < elemCount n) :
    packSource (unpackedHalf k a n .high) (unpackedHalf k a n .low) (2 * n) j =
      BitVec.ofInt (8 * (2 * n)) (k.value (elem a n j)) := by
  have hcount := hn.elemCount_eq
  have hhalf := hn.elemCount_half
  unfold packSource unpackedHalf
  split
  · rw [elem_laneApply1_high hn _ _ _ _ (by omega), readElem_eq_value]
  · rw [elem_laneApply1_low hn _ _ _ _ (by omega), readElem_eq_value, hhalf]
    congr 3
    omega

/-- What a pack reads from the two unpacked halves (R228). -/
def unpackedSources (src k : Sign) (a : V128) (n : Nat) : List Int :=
  packSources src (unpackedHalf k a n .high) (unpackedHalf k a n .low) (2 * n)

@[simp] theorem length_unpackedSources (src k : Sign) (a : V128) (n : Nat) :
    (unpackedSources src k a n).length = 2 * elemCount (2 * n) :=
  length_packSources ..

section
variable {n : Nat} {src k : Sign}

theorem getElem_unpackedSources (hn : IsNarrow n) (src k : Sign) (a : V128) (j : Nat)
    (hj : j < (unpackedSources src k a n).length) :
    (unpackedSources src k a n)[j] = src.value (BitVec.ofInt (8 * (2 * n)) (k.value (elem a n j))) := by
  have hj' : j < elemCount n := by simpa [hn.elemCount_eq] using hj
  rw [← packSource_unpackedHalf hn k a j hj']
  exact getElem_packSources _ _ _ _ j hj

/-- Signed elements are read back as signed, and unsigned ones are read back either way (R232, R238). -/
theorem value_widened (hn : IsNarrow n) (hsrc : k = .signed → src = .signed) (x : BitVec (8 * n)) :
    src.value (BitVec.ofInt (8 * (2 * n)) (k.value x)) = k.value x := by
  have hpos := hn.pos
  exact value_ofInt (by omega) ((fits_value k x).widen (by omega) hsrc)

theorem packElems_saturate_unpackedSources (hn : IsNarrow n) (hsrc : k = .signed → src = .signed) (a : V128) :
    packElems (2 * n) (some k) (unpackedSources src k a n) = a := by
  refine eq_of_elem_eq hn.isWidth _ _ fun j hj => ?_
  have hj' : j < (unpackedSources src k a n).length := by simpa [hn.elemCount_eq] using hj
  have hlane := elem_packElems_saturate hn.isPackWidth_double k _ (length_unpackedSources src k a n) j hj'
  rwa [getElem_unpackedSources hn, value_widened hn hsrc, Nat.mul_div_cancel_left n two_pos, sat_eq_self_iff.2 (fits_value k _),
    ofInt_value] at hlane

theorem packElems_truncate_unpackedSources (hn : IsNarrow n) (k : Sign) (a : V128) :
    packElems (2 * n) none (unpackedSources .unsigned k a n) = a := by
  refine eq_of_elem_eq hn.isWidth _ _ fun j hj => ?_
  have hj' : j < (unpackedSources .unsigned k a n).length := by simpa [hn.elemCount_eq] using hj
  have hlane := elem_packElems_truncate hn.isPackWidth_double _ (length_unpackedSources .unsigned k a n) j hj'
  rwa [getElem_unpackedSources hn, Sign.value, Nat.mul_div_cancel_left n two_pos, ofInt_toNat_ofInt (by omega),
    ofInt_value] at hlane

theorem saturatedCount_unpackedSources (hn : IsNarrow n) (hsrc : k = .signed → src = .signed) (a : V128) :
    saturatedCount (2 * n) k (unpackedSources src k a n) = 0 := by
  rw [saturatedCount_eq_zero_iff, List.forall_mem_iff_getElem]
  intro j hj
  rw [getElem_unpackedSources hn, value_widened hn hsrc, Nat.mul_div_cancel_left n two_pos]
  exact fits_value k _

end

/-- Unpacking a register that holds a value into `h` and `l` completes, and leaves its widened halves there (R229). -/
theorem unpack_high_low {s : State} {h l v : VReg} {m3 : MField} (k : Sign) (mh ml : Mnemonic) (hm : m3.toNat ≤ 2)
    (hhv : h ≠ v) (hhl : h ≠ l) (hv : s.vrHeld v = true) :
    ∃ t u, unpack s mh h v m3 k .high = .next t ∧ unpack t ml l v m3 k .low = .next u ∧
      u.vrHeld h = true ∧ u.vrHeld l = true ∧
      u.vrAt h = unpackedHalf k (s.vrAt v) (width m3) .high ∧ u.vrAt l = unpackedHalf k (s.vrAt v) (width m3) .low := by
  have ht : ∀ x, (s.writeVR h x).vrHeld v = true := fun x => by simp [writeVR_vrHeld, hhv, hv]
  refine ⟨s.writeVR h (unpackedHalf k (s.vrAt v) (width m3) .high), _, unpack_next.2 ⟨?_, hm, ?_⟩,
    unpack_next.2 ⟨?_, hm, rfl⟩, ?_, ?_, ?_, ?_⟩
  · simp [State.vrReadable, hv]
  · rw [afterVR_of_held hv, vrValue_of_held hv]
  · simp [State.vrReadable, ht]
  · simp [writeVR_vrHeld]
  · simp [writeVR_vrHeld]
  · simp [writeVR_vrAt, hhl.symm]
  · simp [vrValue_of_held (ht _), writeVR_vrAt, hhv]

/-- Packing the two halves that an unpack left gives the register back, saturating or truncating, and no element saturates
(R238). -/
theorem pack_unpackedHalf {u : State} {d h l : VReg} {m3 m4 m5 : MField} {k src : Sign} {m : Mnemonic} {a : V128}
    (hm3 : m3.toNat ≤ 2) (hm4 : m4.toNat = m3.toNat + 1) (hsrc : k = .signed → src = .signed)
    (hh : u.vrHeld h = true) (hl : u.vrHeld l = true)
    (hhigh : u.vrAt h = unpackedHalf k a (width m3) .high) (hlow : u.vrAt l = unpackedHalf k a (width m3) .low) :
    ∃ r q, packSaturate u m d h l m4 m5 src k = .next r ∧ r.vrAt d = a ∧ (csBit m5 = true → r.cc = 0#2) ∧
      execVpk d h l m4 u = .next q ∧ q.vrAt d = a := by
  have hn := isNarrow_width hm3
  have hw : width m4 = 2 * width m3 := by rw [width, width, hm4, pow_succ, Nat.mul_comm]
  have hlegal : packLegal m4 = true := packLegal_of_bounds (by omega) (by omega)
  have hrh : u.vrReadable h = true := by simp [State.vrReadable, hh]
  have hrl : u.vrReadable l = true := by simp [State.vrReadable, hl]
  have hsources : ∀ sg, packSources sg (u.vrValue h) ((u.afterVR h).vrValue l) (width m4) =
      unpackedSources sg k a (width m3) := fun sg => by
    rw [afterVR_of_held hh, vrValue_of_held hh, vrValue_of_held hl, hhigh, hlow, hw, unpackedSources]
  refine ⟨_, _, (packSaturate_next (hsources src).symm).2 ⟨hrh, hrl, hlegal, rfl⟩, ?_, fun hcs => ?_,
    execVpk_next.2 ⟨hrh, hrl, hlegal, rfl⟩, ?_⟩
  · rw [writeVRAndCC_vrAt_self, hw, packElems_saturate_unpackedSources hn hsrc]
  · rw [hcs, writeVRAndCC_cc, hw, saturatedCount_unpackedSources hn hsrc]
    rfl
  · rw [writeVR_vrAt_self, hsources, hw, packElems_truncate_unpackedSources hn]

/-- Settles O15: saturating gives a value that fits, which saturating again keeps; and the elements of a register, widened, are
read back as values that fit the narrow lane. -/
theorem saturationAndRoundTripLaws : Obligations.SaturationAndRoundTripLaws := by
  refine ⟨fun x k n _ => sat_eq_self_iff.2 (fits_sat x k n), fun s d h l v m3 m4 m5 hm3 hm4 hhv hhl hv => ⟨?_, ?_⟩⟩
  · obtain ⟨t, u, ht, hu, hh, hl, hhigh, hlow⟩ := unpack_high_low .signed .vuph .vupl hm3 hhv hhl hv
    obtain ⟨r, q, hr, hrd, hcc, hq, hqd⟩ :=
      pack_unpackedHalf (m := .vpks) (m5 := m5) (d := d) hm3 hm4 (fun _ => rfl) hh hl hhigh hlow
    exact ⟨t, u, r, q, ht, hu, hr, hrd, hcc, hq, hqd⟩
  · obtain ⟨t, u, ht, hu, hh, hl, hhigh, hlow⟩ := unpack_high_low .unsigned .vuplh .vupll hm3 hhv hhl hv
    obtain ⟨r, q, hr, hrd, hcc, hq, hqd⟩ :=
      pack_unpackedHalf (m := .vpkls) (m5 := m5) (d := d) (src := pklsSign u.params.pklsSrc) hm3 hm4 (by simp) hh hl hhigh
        hlow
    exact ⟨t, u, r, q, ht, hu, hr, hrd, hcc, hq, hqd⟩

end Sys2Proof.Machine

/-! PROOFS. Whole-machine rules of 10_state.md: the step around an instruction (O45, O47), the condition code (O37, O38), the
refusal of unwritten reads (O44), and the states in which everything is supplied (O51). -/

namespace Sys2Proof.Machine

/-! ### The step takes the instruction at the front of the handed bytes (10_state.md R38, R42; 30_encoding.md R91) -/

theorem step_of_decode {s : State} {i : Instr} {rest : List Byte} (h : decode s.stream = .instr i rest) :
    step s = finishStep i.length rest (exec i s) := by
  simp [step, h]

/-- Settles O45: the step finishes what the decoded instruction answers. -/
theorem stepRunsDecodedInstruction : Obligations.StepRunsDecodedInstruction := by
  intro s i rest hdec
  rw [step_of_decode hdec]
  exact ⟨fun u hu => by rw [hu]; rfl, fun f hf => by rw [hf]; rfl, fun e he => by rw [he]; rfl⟩

theorem len_of_lookupOpcode {len : Nat} {op : BitVec 48} {m : Mnemonic} (h : lookupOpcode len op = some m) :
    (opcodeRow m).len = len := by
  have hrow := List.find?_some h
  simp only [Bool.and_eq_true, beq_iff_eq] at hrow
  exact hrow.1

theorem mnemonic_instrOfWord (m : Mnemonic) (w : BitVec 48) : (instrOfWord m w).mnemonic = m := by
  cases m <;> rfl

theorem opcodeRow_len (m : Mnemonic) : (opcodeRow m).len = 4 ∨ (opcodeRow m).len = 6 := by
  cases m <;> simp [opcodeRow]

theorem decodeWord_instr {len : Nat} {w : BitVec 48} {bs rest : List Byte} {i : Instr}
    (h : decodeWord len w bs = .instr i rest) : i.length = len ∧ rest = bs := by
  unfold decodeWord at h
  split at h
  · cases h
  next m hm =>
    split_ifs at h
    cases h
    exact ⟨by rw [Instr.length, mnemonic_instrOfWord, len_of_lookupOpcode hm], rfl⟩

/-- An instruction is decoded from as many bytes as the first one tells (R91). -/
theorem decode_instr {bs rest : List Byte} {i : Instr} (h : decode bs = .instr i rest) :
    ∃ b tail, bs = b :: tail ∧ i.length = lengthCode b ∧ i.length ≤ bs.length ∧ rest = bs.drop i.length := by
  cases bs with
  | nil => cases h
  | cons b tail =>
    rw [decode] at h
    split_ifs at h with hlen
    obtain ⟨hi, rfl⟩ := decodeWord_instr h
    exact ⟨b, tail, rfl, hi, by omega, by rw [hi]⟩

/-- Settles O47: what was decoded is as long as the first byte tells, and running it changes neither the handed bytes nor the
address. -/
theorem stepAdvancesByLength : Obligations.StepAdvancesByLength := by
  intro s t h
  obtain ⟨i, rest, u, hdec, hexec, rfl⟩ := step_next.1 h
  obtain ⟨b, tail, hbs, hlen, hle, rfl⟩ := decode_instr hdec
  have hia : u.ia = s.ia := (exec_updates hexec).ia
  exact ⟨b, tail, i.length, hbs, hlen, opcodeRow_len i.mnemonic, hle, rfl, by rw [advance_ia, hia]⟩

/-! ### The condition codes that are written (10_state.md R37) -/

theorem packCC_ne_two (nsat total : Nat) : packCC nsat total ≠ 2#2 := by
  unfold packCC
  split_ifs <;> decide

theorem compareCC_ne_two (t total : Nat) : compareCC t total ≠ 2#2 := by
  unfold compareCC
  split_ifs <;> decide

theorem blockCC_ne_two (n : Nat) : blockCC n ≠ 2#2 := by
  unfold blockCC
  split_ifs <;> decide

theorem packSaturate_cc {s t : State} {m : Mnemonic} {v1 v2 v3 : VReg} {m4 m5 : MField} {src dst : Sign}
    (h : packSaturate s m v1 v2 v3 m4 m5 src dst = .next t) (hcs : csBit m5 = true) :
    t.cc ≠ 2#2 ∧ t.ccSupplied = true := by
  obtain ⟨-, -, -, rfl⟩ := (packSaturate_next rfl).1 h
  rw [hcs]
  exact ⟨packCC_ne_two _ _, rfl⟩

theorem compareHigh_cc {s t : State} {m : Mnemonic} {v1 v2 v3 : VReg} {m4 m5 : MField} {sg : Sign}
    (h : compareHigh s m v1 v2 v3 m4 m5 sg = .next t) (hcs : csBit m5 = true) : t.cc ≠ 2#2 ∧ t.ccSupplied = true := by
  obtain ⟨-, -, -, rfl⟩ := (compareHigh_next rfl rfl).1 h
  rw [hcs]
  exact ⟨compareCC_ne_two _ _, rfl⟩

theorem execLcbb_cc {s t : State} {r1 x2 b2 : GReg} {d2 : BitVec 12} {m3 : MField}
    (h : execLcbb r1 d2 x2 b2 m3 s = .next t) : t.cc ≠ 2#2 ∧ t.ccSupplied = true := by
  simp only [execLcbb, readGR_next, readBase_next] at h
  obtain ⟨-, -, -, h⟩ := h
  split_ifs at h
  · simp at h
  · cases h
    exact ⟨blockCC_ne_two _, rfl⟩

/-- Settles O37: the five writers of the CC write `packCC`, `compareCC` or `blockCC`. -/
theorem writtenConditionCodeIsNeverTwo : Obligations.WrittenConditionCodeIsNeverTwo := by
  intro i s t hset h
  cases i with
  | vpks | vpkls => exact packSaturate_cc h hset
  | vch | vchl => exact compareHigh_cc h hset
  | lcbb => exact execLcbb_cc h
  | _ => cases hset

/-! ### What a change of the CC leaves alone (10_state.md R37) -/

section
variable (s : State) (cc : CondCode) (held : Bool)

@[simp] theorem replaceCC_vrHeld (r : VReg) : (s.replaceCC cc held).vrHeld r = s.vrHeld r := rfl
@[simp] theorem replaceCC_grHeld (r : GReg) : (s.replaceCC cc held).grHeld r = s.grHeld r := rfl
@[simp] theorem replaceCC_vrValue (r : VReg) : (s.replaceCC cc held).vrValue r = s.vrValue r := rfl
@[simp] theorem replaceCC_grValue (r : GReg) : (s.replaceCC cc held).grValue r = s.grValue r := rfl
@[simp] theorem replaceCC_baseValue (b : GReg) : (s.replaceCC cc held).baseValue b = s.baseValue b := rfl

@[simp] theorem replaceCC_afterVR (r : VReg) : (s.replaceCC cc held).afterVR r = (s.afterVR r).replaceCC cc held := by
  unfold State.afterVR
  rw [replaceCC_vrHeld]
  split <;> rfl

@[simp] theorem replaceCC_afterGR (r : GReg) : (s.replaceCC cc held).afterGR r = (s.afterGR r).replaceCC cc held := by
  unfold State.afterGR
  rw [replaceCC_grHeld]
  split <;> rfl

@[simp] theorem replaceCC_afterBase (b : GReg) :
    (s.replaceCC cc held).afterBase b = (s.afterBase b).replaceCC cc held := by
  unfold State.afterBase
  split
  · rfl
  · exact replaceCC_afterGR ..

end

/-- VLL reads V1 only to keep its tail (10_state.md R44; 45_element_memory.md R296). -/
theorem readTail_eq (s : State) (v1 : VReg) (len : Nat) (k : V128 → State → Result) :
    readTail s v1 len k = if len < 16 ∧ s.params.vllTail = .preserve then readVR s v1 k else k 0#128 s := by
  cases htail : s.params.vllTail <;> simp [readTail, htail]

/-! ### Meanings that do not read the CC (10_state.md R37) -/

/-- Where `k` completes, it completes from every CC, with the same state but for the CC; with the very same state where
it `sets` the CC. -/
def CCBlind (sets : Bool) (k : State → Result) : Prop :=
  ∀ ⦃s t : State⦄ (cc : CondCode) (held : Bool), k s = .next t →
    k (s.replaceCC cc held) = .next (if sets then t else t.replaceCC cc held)

section
variable {sets : Bool} {m : Mnemonic}

/-! Each read passes the CC on to the rest of the instruction. -/

theorem ccBlind_readVR {r : VReg} {k : V128 → State → Result} (hk : ∀ x, CCBlind sets (k x)) :
    CCBlind sets fun s => readVR s r k := by
  intro s t cc held h
  obtain ⟨hr, h⟩ := readVR_next.1 h
  exact readVR_next.2 ⟨hr, by simpa using hk _ cc held h⟩

theorem ccBlind_readGR {r : GReg} {k : Word64 → State → Result} (hk : ∀ x, CCBlind sets (k x)) :
    CCBlind sets fun s => readGR s r k := by
  intro s t cc held h
  obtain ⟨hr, h⟩ := readGR_next.1 h
  exact readGR_next.2 ⟨hr, by simpa using hk _ cc held h⟩

theorem ccBlind_readBase {b : GReg} {k : Word64 → State → Result} (hk : ∀ x, CCBlind sets (k x)) :
    CCBlind sets fun s => readBase s b k := by
  intro s t cc held h
  obtain ⟨hr, h⟩ := readBase_next.1 h
  exact readBase_next.2 ⟨hr, by simpa using hk _ cc held h⟩

theorem ccBlind_memRead {a : Addr} {n : Nat} {k : List Byte → State → Result} (hk : ∀ bs, CCBlind sets (k bs)) :
    CCBlind sets fun s => memRead s m a n fun bs => k bs s := by
  intro s t cc held h
  obtain ⟨hr, h⟩ := memRead_next.1 h
  exact memRead_next.2 ⟨hr, hk _ cc held h⟩

theorem ccBlind_readTail {v1 : VReg} {len : Nat} {k : V128 → State → Result} (hk : ∀ x, CCBlind sets (k x)) :
    CCBlind sets fun s => readTail s v1 len k := by
  intro s t cc held h
  simp only [readTail_eq] at h ⊢
  split_ifs at h with htail
  · exact (if_pos htail).trans (ccBlind_readVR hk cc held h)
  · exact (if_neg htail).trans (hk _ cc held h)

/-! What an instruction ends with. -/

theorem ccBlind_raiseSpecification {f : FieldName} {v : Nat} : CCBlind sets fun s => raiseSpecification s m f v :=
  fun _ _ _ _ h => absurd h (by simp)

theorem ccBlind_writeVR {r : VReg} {v : V128} : CCBlind false fun s => .next (s.writeVR r v) := by
  intro s t cc held h
  cases h
  rfl

theorem ccBlind_memWrite {a : Addr} {bs : List Byte} : CCBlind false fun s => memWrite s m a bs := by
  intro s t cc held h
  obtain ⟨hr, rfl⟩ := memWrite_next.1 h
  exact memWrite_next.2 ⟨hr, rfl⟩

/-- The CC that is written hides the one that was there. -/
theorem ccBlind_writeCC {f : State → State} {c : CondCode}
    (hf : ∀ s cc held, f (s.replaceCC cc held) = (f s).replaceCC cc held) :
    CCBlind true fun s => .next ((f s).writeCC c) := by
  intro s t cc held h
  cases h
  simp only [hf]
  rfl

theorem ccBlind_writeVR_cs {r : VReg} {v : V128} {cs : Bool} {c : CondCode} :
    CCBlind cs fun s => .next (if cs then (s.writeVR r v).writeCC c else s.writeVR r v) := by
  cases cs with
  | false => exact ccBlind_writeVR
  | true => exact ccBlind_writeCC fun _ _ _ => rfl

theorem ccBlind_ite {c : Prop} [Decidable c] {k l : State → Result} (hk : CCBlind sets k) (hl : CCBlind sets l) :
    CCBlind sets fun s => if c then k s else l s := by
  split_ifs
  · exact hk
  · exact hl

/-! Each shape of instruction, following its definition. -/

theorem ccBlind_vectorBinary {v1 v2 v3 : VReg} {m4 : MField} {legal : Bool} {f : V128 → V128 → V128} :
    CCBlind false fun s => vectorBinary s m v1 v2 v3 m4 legal f :=
  ccBlind_readVR fun _ => ccBlind_readVR fun _ => ccBlind_ite ccBlind_writeVR ccBlind_raiseSpecification

theorem ccBlind_laneBinary {v1 v2 v3 : VReg} {m4 : MField} {maxCode : Nat} {op : Int → Int → Int} {sg : Sign}
    {rg : ElementRange} {ow : OutWidth} : CCBlind false fun s => laneBinary s m v1 v2 v3 m4 maxCode op sg rg ow :=
  ccBlind_vectorBinary

theorem ccBlind_vectorLogic {v1 v2 v3 : VReg} {f : V128 → V128 → V128} :
    CCBlind false fun s => vectorLogic s v1 v2 v3 f :=
  ccBlind_readVR fun _ => ccBlind_readVR fun _ => ccBlind_writeVR

theorem ccBlind_vectorUnary {v1 v2 : VReg} {m3 : MField} {maxCode : Nat} {f : V128 → V128} :
    CCBlind false fun s => vectorUnary s m v1 v2 m3 maxCode f :=
  ccBlind_readVR fun _ => ccBlind_ite ccBlind_writeVR ccBlind_raiseSpecification

theorem ccBlind_unpack {v1 v2 : VReg} {m3 : MField} {sg : Sign} {rg : ElementRange} :
    CCBlind false fun s => unpack s m v1 v2 m3 sg rg :=
  ccBlind_vectorUnary

theorem ccBlind_vectorTernary {v1 v2 v3 v4 : VReg} {f : V128 → V128 → V128 → V128} :
    CCBlind false fun s => vectorTernary s v1 v2 v3 v4 f :=
  ccBlind_readVR fun _ => ccBlind_readVR fun _ => ccBlind_readVR fun _ => ccBlind_writeVR

theorem ccBlind_packSaturate {v1 v2 v3 : VReg} {m4 m5 : MField} {src dst : Sign} :
    CCBlind (csBit m5) fun s => packSaturate s m v1 v2 v3 m4 m5 src dst :=
  ccBlind_readVR fun _ => ccBlind_readVR fun _ => ccBlind_ite ccBlind_writeVR_cs ccBlind_raiseSpecification

theorem ccBlind_compareHigh {v1 v2 v3 : VReg} {m4 m5 : MField} {sg : Sign} :
    CCBlind (csBit m5) fun s => compareHigh s m v1 v2 v3 m4 m5 sg :=
  ccBlind_readVR fun _ => ccBlind_readVR fun _ => ccBlind_ite ccBlind_writeVR_cs ccBlind_raiseSpecification

theorem ccBlind_execVrep {v1 v3 : VReg} {i2 : BitVec 16} {m4 : MField} : CCBlind false (execVrep v1 v3 i2 m4) :=
  ccBlind_readVR fun _ =>
    ccBlind_ite ccBlind_raiseSpecification (ccBlind_ite ccBlind_raiseSpecification ccBlind_writeVR)

theorem ccBlind_execVrepi {v1 : VReg} {i2 : BitVec 16} {m3 : MField} : CCBlind false (execVrepi v1 i2 m3) :=
  ccBlind_ite ccBlind_raiseSpecification ccBlind_writeVR

theorem ccBlind_gather {w : Nat} {v1 v2 : VReg} {d2 : BitVec 12} {b2 : GReg} {m3 : MField} :
    CCBlind false fun s => gather s m w v1 d2 v2 b2 m3 :=
  ccBlind_readVR fun _ => ccBlind_readBase fun _ => ccBlind_readVR fun _ =>
    ccBlind_ite ccBlind_raiseSpecification (ccBlind_memRead fun _ => ccBlind_writeVR)

theorem ccBlind_scatter {w : Nat} {v1 v2 : VReg} {d2 : BitVec 12} {b2 : GReg} {m3 : MField} :
    CCBlind false fun s => scatter s m w v1 d2 v2 b2 m3 :=
  ccBlind_readVR fun _ => ccBlind_readBase fun _ => ccBlind_readVR fun _ =>
    ccBlind_ite ccBlind_raiseSpecification ccBlind_memWrite

theorem ccBlind_execVll {v1 : VReg} {r3 b2 : GReg} {d2 : BitVec 12} : CCBlind false (execVll v1 r3 d2 b2) :=
  ccBlind_readGR fun _ => ccBlind_readBase fun _ => ccBlind_readTail fun _ => ccBlind_memRead fun _ => ccBlind_writeVR

theorem ccBlind_execVstl {v1 : VReg} {r3 b2 : GReg} {d2 : BitVec 12} : CCBlind false (execVstl v1 r3 d2 b2) :=
  ccBlind_readGR fun _ => ccBlind_readBase fun _ => ccBlind_readVR fun _ => ccBlind_memWrite

theorem ccBlind_execLcbb {r1 x2 b2 : GReg} {d2 : BitVec 12} {m3 : MField} : CCBlind true (execLcbb r1 d2 x2 b2 m3) :=
  ccBlind_readBase fun _ => ccBlind_readBase fun _ => ccBlind_readGR fun _ =>
    ccBlind_ite ccBlind_raiseSpecification (ccBlind_writeCC fun _ _ _ => rfl)

end

/-- Settles O38: no shape outside the load/store-on-condition family reads the CC, and one that writes it writes it last. -/
theorem onlyLocFamilyReadsConditionCode : Obligations.OnlyLocFamilyReadsConditionCode := by
  intro i s t cc held hreads h
  cases i with dsimp only [exec] at h ⊢
  | va | vs | vavg | vavgl | vmx | vmxl | vmn | vmnl | vml | vmh | vmlh | vme | vmle | vmo | vmlo =>
    exact ccBlind_laneBinary cc held h
  | vpk | vmrh | vmrl => exact ccBlind_vectorBinary cc held h
  | vn | vnc | vo | vno | vx | vpdi => exact ccBlind_vectorLogic cc held h
  | vlc | vlp | vpopct | vclz | vctz => exact ccBlind_vectorUnary cc held h
  | vuph | vupl | vuplh | vupll => exact ccBlind_unpack cc held h
  | vpks | vpkls => exact ccBlind_packSaturate cc held h
  | vch | vchl => exact ccBlind_compareHigh cc held h
  | vperm | vsel => exact ccBlind_vectorTernary cc held h
  | vrep => exact ccBlind_execVrep cc held h
  | vrepi => exact ccBlind_execVrepi cc held h
  | vgef | vgeg => exact ccBlind_gather cc held h
  | vscef | vsceg => exact ccBlind_scatter cc held h
  | vll => exact ccBlind_execVll cc held h
  | vstl => exact ccBlind_execVstl cc held h
  | lcbb => exact ccBlind_execLcbb cc held h
  | locr | locgr | loc | locg | stoc | stocg => cases hreads

/-! ### Refusals of unwritten reads (10_state.md R44; 60_exceptions.md R355) -/

/-- A register of `vs` or `gs`, or the CC where `cc` is true, cannot be read. -/
def LacksSource (s : State) (vs : List VReg) (gs : List GReg) (cc : Bool) : Prop :=
  (∃ r, r ∈ vs ∧ s.vrReadable r = false) ∨ (∃ r, r ∈ gs ∧ s.grReadable r = false) ∨
    (cc = true ∧ s.ccReadable = false)

section
variable {s : State} {vs : List VReg} {gs : List GReg} {cc : Bool}

@[simp] theorem lacksSource_nil : ¬ LacksSource s [] [] false := by simp [LacksSource]

theorem lacksSource_vr_cons {r : VReg} :
    LacksSource s (r :: vs) gs cc ↔ s.vrReadable r = false ∨ LacksSource s vs gs cc := by
  simp [LacksSource, or_assoc]

theorem lacksSource_gr_append {rs : List GReg} :
    LacksSource s vs (rs ++ gs) cc ↔ (∃ r, r ∈ rs ∧ s.grReadable r = false) ∨ LacksSource s vs gs cc := by
  simp only [LacksSource, List.mem_append, or_and_right, exists_or, or_assoc, or_left_comm]

theorem lacksSource_cc : LacksSource s vs gs true ↔ LacksSource s vs gs false ∨ s.ccReadable = false := by
  simp [LacksSource, or_assoc]

theorem baseReadable_eq_false {b : GReg} :
    s.baseReadable b = false ↔ ∃ r, r ∈ baseSource b ∧ s.grReadable r = false := by
  unfold State.baseReadable baseSource
  split <;> simp_all

@[simp] theorem lacksSource_afterVR {r : VReg} : LacksSource (s.afterVR r) vs gs cc ↔ LacksSource s vs gs cc := by
  simp [LacksSource]

@[simp] theorem lacksSource_afterGR {r : GReg} : LacksSource (s.afterGR r) vs gs cc ↔ LacksSource s vs gs cc := by
  simp [LacksSource]

@[simp] theorem lacksSource_afterCC : LacksSource s.afterCC vs gs cc ↔ LacksSource s vs gs cc := by
  simp [LacksSource]

@[simp] theorem lacksSource_afterBase {b : GReg} : LacksSource (s.afterBase b) vs gs cc ↔ LacksSource s vs gs cc := by
  simp [LacksSource]

/-- Under DRAW everything can be read; under FAULT what holds a value (R44). -/
theorem lacksSource_iff :
    LacksSource s vs gs cc ↔ s.drawsUnwritten = false ∧
      ((∃ r, r ∈ vs ∧ s.vrHeld r = false) ∨ (∃ r, r ∈ gs ∧ s.grHeld r = false) ∨
        (cc = true ∧ s.ccSupplied = false)) := by
  cases h : s.drawsUnwritten <;> simp [LacksSource, State.vrReadable, State.grReadable, State.ccReadable, h]

/-- Sources may be told by what a general register among them contains instead of by what reading it gives. -/
theorem lacksSource_grValue (f : Word64 → List VReg) {r : GReg} (hr : r ∈ gs) :
    LacksSource s (f (s.grValue r)) gs cc ↔ LacksSource s (f (s.grAt r)) gs cc := by
  cases h : s.grHeld r with
  | true => rw [grValue_of_held h]
  | false =>
    have hlacks : ∃ q, q ∈ gs ∧ s.grHeld q = false := ⟨r, hr, h⟩
    simp [lacksSource_iff, hlacks]

/-- Likewise for what the CC contains, where the CC is a source. -/
theorem lacksSource_ccValue (f : CondCode → List GReg) {c : CondCode} (hc : s.ccSupplied = true → c = s.cc) :
    LacksSource s vs (f c) true ↔ LacksSource s vs (f s.cc) true := by
  cases h : s.ccSupplied with
  | true => rw [hc h]
  | false => simp [lacksSource_iff, h]

end

/-- `o` is a refusal exactly when, from `s`, a source is lacking, and then it is the refusal of an unwritten read. -/
def RefusesFor (o : Result) (s : State) (vs : List VReg) (gs : List GReg) (cc : Bool) : Prop :=
  ∀ e, o = .refused e ↔ e = .unwrittenRead ∧ LacksSource s vs gs cc

section
variable {s : State} {vs : List VReg} {gs : List GReg} {cc : Bool} {m : Mnemonic}

theorem refusesFor_of_ne {o : Result} (h : ∀ e, o ≠ .refused e) : RefusesFor o s [] [] false := by
  simp [RefusesFor, h]

/-! Each read adds its source to those of the rest of the instruction. -/

theorem refusesFor_readVR {r : VReg} {k : V128 → State → Result}
    (hk : RefusesFor (k (s.vrValue r) (s.afterVR r)) (s.afterVR r) vs gs cc) :
    RefusesFor (readVR s r k) s (r :: vs) gs cc := by
  intro e
  rw [readVR_refused, hk e, lacksSource_vr_cons, lacksSource_afterVR]
  cases s.vrReadable r <;> simp

theorem refusesFor_readBase {b : GReg} {k : Word64 → State → Result}
    (hk : RefusesFor (k (s.baseValue b) (s.afterBase b)) (s.afterBase b) vs gs cc) :
    RefusesFor (readBase s b k) s vs (baseSource b ++ gs) cc := by
  intro e
  rw [readBase_refused, hk e, lacksSource_gr_append, ← baseReadable_eq_false, lacksSource_afterBase]
  cases s.baseReadable b <;> simp

theorem refusesFor_readGR {r : GReg} {k : Word64 → State → Result}
    (hk : RefusesFor (k (s.grValue r) (s.afterGR r)) (s.afterGR r) vs gs cc) :
    RefusesFor (readGR s r k) s vs (r :: gs) cc := by
  intro e
  rw [readGR_refused, hk e, ← List.singleton_append, lacksSource_gr_append, lacksSource_afterGR]
  cases h : s.grReadable r <;> simp [h]

theorem refusesFor_readCC {k : CondCode → State → Result}
    (hk : RefusesFor (k s.ccValue s.afterCC) s.afterCC vs gs false) : RefusesFor (readCC s k) s vs gs true := by
  intro e
  rw [readCC_refused, hk e, lacksSource_cc, lacksSource_afterCC]
  cases s.ccReadable <;> simp

theorem refusesFor_readTail {v1 : VReg} {len : Nat} {k : V128 → State → Result} (hk : ∀ x u e, k x u ≠ .refused e) :
    RefusesFor (readTail s v1 len k) s (if len < 16 ∧ s.params.vllTail = .preserve then [v1] else []) [] false := by
  rw [readTail_eq]
  split_ifs
  · exact refusesFor_readVR (refusesFor_of_ne (hk _ _))
  · exact refusesFor_of_ne (hk _ _)

theorem refusesFor_ite {c : Prop} [Decidable c] {o p : Result} (ho : RefusesFor o s [] gs false)
    (hp : RefusesFor p s [] [] false) : RefusesFor (if c then o else p) s [] (if c then gs else []) false := by
  split_ifs
  · exact ho
  · exact hp

/-! Each shape of instruction, following its definition. -/

theorem vectorBinary_refuses {v1 v2 v3 : VReg} {m4 : MField} {legal : Bool} {f : V128 → V128 → V128} :
    RefusesFor (vectorBinary s m v1 v2 v3 m4 legal f) s [v2, v3] [] false :=
  refusesFor_readVR <| refusesFor_readVR <| refusesFor_of_ne fun e => by split_ifs <;> simp

theorem laneBinary_refuses {v1 v2 v3 : VReg} {m4 : MField} {maxCode : Nat} {op : Int → Int → Int} {sg : Sign}
    {rg : ElementRange} {ow : OutWidth} :
    RefusesFor (laneBinary s m v1 v2 v3 m4 maxCode op sg rg ow) s [v2, v3] [] false :=
  vectorBinary_refuses

theorem vectorLogic_refuses {v1 v2 v3 : VReg} {f : V128 → V128 → V128} :
    RefusesFor (vectorLogic s v1 v2 v3 f) s [v2, v3] [] false :=
  refusesFor_readVR <| refusesFor_readVR <| refusesFor_of_ne fun e => by simp

theorem vectorUnary_refuses {v1 v2 : VReg} {m3 : MField} {maxCode : Nat} {f : V128 → V128} :
    RefusesFor (vectorUnary s m v1 v2 m3 maxCode f) s [v2] [] false :=
  refusesFor_readVR <| refusesFor_of_ne fun e => by split_ifs <;> simp

theorem unpack_refuses {v1 v2 : VReg} {m3 : MField} {sg : Sign} {rg : ElementRange} :
    RefusesFor (unpack s m v1 v2 m3 sg rg) s [v2] [] false :=
  vectorUnary_refuses

theorem vectorTernary_refuses {v1 v2 v3 v4 : VReg} {f : V128 → V128 → V128 → V128} :
    RefusesFor (vectorTernary s v1 v2 v3 v4 f) s [v2, v3, v4] [] false :=
  refusesFor_readVR <| refusesFor_readVR <| refusesFor_readVR <| refusesFor_of_ne fun e => by simp

theorem packSaturate_refuses {v1 v2 v3 : VReg} {m4 m5 : MField} {src dst : Sign} :
    RefusesFor (packSaturate s m v1 v2 v3 m4 m5 src dst) s [v2, v3] [] false :=
  refusesFor_readVR <| refusesFor_readVR <| refusesFor_of_ne fun e => by split <;> simp

theorem compareHigh_refuses {v1 v2 v3 : VReg} {m4 m5 : MField} {sg : Sign} :
    RefusesFor (compareHigh s m v1 v2 v3 m4 m5 sg) s [v2, v3] [] false :=
  refusesFor_readVR <| refusesFor_readVR <| refusesFor_of_ne fun e => by split <;> simp

theorem execVrep_refuses {v1 v3 : VReg} {i2 : BitVec 16} {m4 : MField} :
    RefusesFor (execVrep v1 v3 i2 m4 s) s [v3] [] false :=
  refusesFor_readVR <| refusesFor_of_ne fun e => by split_ifs <;> simp

theorem execVrepi_refuses {v1 : VReg} {i2 : BitVec 16} {m3 : MField} :
    RefusesFor (execVrepi v1 i2 m3 s) s [] [] false :=
  refusesFor_of_ne fun e => by unfold execVrepi; split_ifs <;> simp

theorem gather_refuses {w : Nat} {v1 v2 : VReg} {d2 : BitVec 12} {b2 : GReg} {m3 : MField} :
    RefusesFor (gather s m w v1 d2 v2 b2 m3) s [v1, v2] (baseSource b2) false := by
  rw [← List.append_nil (baseSource b2)]
  exact refusesFor_readVR <| refusesFor_readBase <| refusesFor_readVR <| refusesFor_of_ne fun e => by
    split_ifs <;> simp [memRead_refused]

theorem scatter_refuses {w : Nat} {v1 v2 : VReg} {d2 : BitVec 12} {b2 : GReg} {m3 : MField} :
    RefusesFor (scatter s m w v1 d2 v2 b2 m3) s [v1, v2] (baseSource b2) false := by
  rw [← List.append_nil (baseSource b2)]
  exact refusesFor_readVR <| refusesFor_readBase <| refusesFor_readVR <| refusesFor_of_ne fun e => by
    split_ifs <;> simp

theorem execVll_refuses {v1 : VReg} {r3 b2 : GReg} {d2 : BitVec 12} :
    RefusesFor (execVll v1 r3 d2 b2 s) s
      (if boundedLength (s.grValue r3) < 16 ∧ s.params.vllTail = .preserve then [v1] else [])
      (r3 :: baseSource b2) false := by
  rw [← List.append_nil (baseSource b2), ← afterGR_params s r3, ← afterBase_params _ b2]
  exact refusesFor_readGR <| refusesFor_readBase <| refusesFor_readTail fun x u e => by simp [memRead_refused]

theorem execVstl_refuses {v1 : VReg} {r3 b2 : GReg} {d2 : BitVec 12} :
    RefusesFor (execVstl v1 r3 d2 b2 s) s [v1] (r3 :: baseSource b2) false := by
  rw [← List.append_nil (baseSource b2)]
  exact refusesFor_readGR <| refusesFor_readBase <| refusesFor_readVR <| refusesFor_of_ne fun e => by simp

theorem execLcbb_refuses {r1 x2 b2 : GReg} {d2 : BitVec 12} {m3 : MField} :
    RefusesFor (execLcbb r1 d2 x2 b2 m3 s) s [] (baseSource x2 ++ baseSource b2 ++ [r1]) false := by
  rw [List.append_assoc]
  exact refusesFor_readBase <| refusesFor_readBase <| refusesFor_readGR <| refusesFor_of_ne fun e => by
    split <;> simp

theorem execLocr_refuses {r1 r2 : GReg} {m3 : MField} :
    RefusesFor (execLocr r1 r2 m3 s) s [] (if condHolds m3 s.ccValue then [r1, r2] else []) true :=
  refusesFor_readCC <| refusesFor_ite
    (refusesFor_readGR <| refusesFor_readGR <| refusesFor_of_ne fun e => by simp) (refusesFor_of_ne fun e => by simp)

theorem execLocgr_refuses {r1 r2 : GReg} {m3 : MField} :
    RefusesFor (execLocgr r1 r2 m3 s) s [] (if condHolds m3 s.ccValue then [r2] else []) true :=
  refusesFor_readCC <| refusesFor_ite (refusesFor_readGR <| refusesFor_of_ne fun e => by simp)
    (refusesFor_of_ne fun e => by simp)

theorem execLoc_refuses {r1 b2 : GReg} {d2 : BitVec 20} {m3 : MField} :
    RefusesFor (execLoc r1 d2 b2 m3 s) s []
      (baseSource b2 ++ if condHolds m3 (s.afterBase b2).ccValue then [r1] else []) true :=
  refusesFor_readBase <| refusesFor_readCC <| refusesFor_ite
    (refusesFor_readGR <| refusesFor_of_ne fun e => by simp [memRead_refused]) (refusesFor_of_ne fun e => by simp)

theorem execLocg_refuses {r1 b2 : GReg} {d2 : BitVec 20} {m3 : MField} :
    RefusesFor (execLocg r1 d2 b2 m3 s) s [] (baseSource b2) true := by
  rw [← List.append_nil (baseSource b2)]
  exact refusesFor_readBase <| refusesFor_readCC <| refusesFor_of_ne fun e => by split_ifs <;> simp [memRead_refused]

theorem execStoc_refuses {r1 b2 : GReg} {d2 : BitVec 20} {m3 : MField} :
    RefusesFor (execStoc r1 d2 b2 m3 s) s []
      (baseSource b2 ++ if condHolds m3 (s.afterBase b2).ccValue then [r1] else []) true :=
  refusesFor_readBase <| refusesFor_readCC <| refusesFor_ite
    (refusesFor_readGR <| refusesFor_of_ne fun e => by simp) (refusesFor_of_ne fun e => by simp)

theorem execStocg_refuses {r1 b2 : GReg} {d2 : BitVec 20} {m3 : MField} :
    RefusesFor (execStocg r1 d2 b2 m3 s) s []
      (baseSource b2 ++ if condHolds m3 (s.afterBase b2).ccValue then [r1] else []) true :=
  refusesFor_readBase <| refusesFor_readCC <| refusesFor_ite
    (refusesFor_readGR <| refusesFor_of_ne fun e => by simp) (refusesFor_of_ne fun e => by simp)

end

/-- Sources told by what reading the CC gives are those told by what it contains. -/
theorem RefusesFor.of_ccValue {o : Result} {s : State} {vs : List VReg} {f : CondCode → List GReg} {c : CondCode}
    (h : RefusesFor o s vs (f c) true) (hc : s.ccSupplied = true → c = s.cc) : RefusesFor o s vs (f s.cc) true :=
  fun e => by rw [h e, lacksSource_ccValue f hc]

theorem ccValue_afterBase_of_held {s : State} {b : GReg} (h : s.ccSupplied = true) : (s.afterBase b).ccValue = s.cc := by
  rw [ccValue_of_held (by simpa using h), afterBase_cc]

/-- An instruction is refused exactly when one of its sources cannot be read (R44). -/
theorem exec_refuses (i : Instr) (s : State) :
    RefusesFor (exec i s) s (vrSources i s) (grSources i s) (readsCC i) := by
  cases i with dsimp only [exec]
  | va | vs | vavg | vavgl | vmx | vmxl | vmn | vmnl | vml | vmh | vmlh | vme | vmle | vmo | vmlo =>
    exact laneBinary_refuses
  | vpk | vmrh | vmrl => exact vectorBinary_refuses
  | vn | vnc | vo | vno | vx | vpdi => exact vectorLogic_refuses
  | vlc | vlp | vpopct | vclz | vctz => exact vectorUnary_refuses
  | vuph | vupl | vuplh | vupll => exact unpack_refuses
  | vpks | vpkls => exact packSaturate_refuses
  | vch | vchl => exact compareHigh_refuses
  | vperm | vsel => exact vectorTernary_refuses
  | vrep => exact execVrep_refuses
  | vrepi => exact execVrepi_refuses
  | vgef | vgeg => exact gather_refuses
  | vscef | vsceg => exact scatter_refuses
  | vll v1 r3 d2 b2 =>
    intro e
    rw [vrSources, grSources, ← lacksSource_grValue
      (fun x => if boundedLength x < 16 ∧ s.params.vllTail = .preserve then [v1] else []) List.mem_cons_self]
    exact execVll_refuses e
  | vstl => exact execVstl_refuses
  | lcbb => exact execLcbb_refuses
  | locr r1 r2 m3 =>
    exact execLocr_refuses.of_ccValue (f := fun c => if condHolds m3 c then [r1, r2] else []) ccValue_of_held
  | locgr r1 r2 m3 =>
    exact execLocgr_refuses.of_ccValue (f := fun c => if condHolds m3 c then [r2] else []) ccValue_of_held
  | loc r1 d2 b2 m3 =>
    exact execLoc_refuses.of_ccValue (f := fun c => baseSource b2 ++ if condHolds m3 c then [r1] else [])
      ccValue_afterBase_of_held
  | locg => exact execLocg_refuses
  | stoc r1 d2 b2 m3 =>
    exact execStoc_refuses.of_ccValue (f := fun c => baseSource b2 ++ if condHolds m3 c then [r1] else [])
      ccValue_afterBase_of_held
  | stocg r1 d2 b2 m3 =>
    exact execStocg_refuses.of_ccValue (f := fun c => baseSource b2 ++ if condHolds m3 c then [r1] else [])
      ccValue_afterBase_of_held

theorem exec_refused {i : Instr} {s : State} {e : Refusal} :
    exec i s = .refused e ↔ e = .unwrittenRead ∧ s.drawsUnwritten = false ∧ ReadsUnwritten i s := by
  rw [exec_refuses i s e, lacksSource_iff, ReadsUnwritten]

/-- Settles O44: `exec_refused` tells every refusal of an instruction. -/
theorem unwrittenReadRefuses : Obligations.UnwrittenReadRefuses := by
  intro i s
  refine ⟨fun hfault => ?_, fun hdraw e h => ?_, fun e h => (exec_refused.1 h).1⟩
  · simp [exec_refused, hfault]
  · obtain ⟨-, hfault, -⟩ := exec_refused.1 h
    simp [hdraw] at hfault

/-! ### States in which everything is supplied (10_state.md R44, R393) -/

theorem not_readsUnwritten_of_allSupplied {s : State} (h : s.AllSupplied) (i : Instr) : ¬ ReadsUnwritten i s := by
  obtain ⟨hvr, hgr, hcc⟩ := h
  simp [ReadsUnwritten, hvr, hgr, hcc]

theorem Updates.allSupplied {vd : Option VReg} {gd : Option GReg} {cc : Bool} {stored : Option (Addr × Nat)} {s t : State}
    (h : Updates vd gd cc stored s t) (hs : s.AllSupplied) : t.AllSupplied := by
  obtain ⟨hvr, hgr, hcc⟩ := hs
  exact ⟨fun r => h.vrHeld (hvr r), fun r => h.grHeld (hgr r), h.ccSupplied hcc⟩

theorem exec_keeps_cc_ne_two {i : Instr} {s t : State} (h : exec i s = .next t) (hs : s.cc ≠ 2#2) : t.cc ≠ 2#2 := by
  cases hset : setsCC i with
  | true =>
    obtain ⟨hcc, -⟩ := writtenConditionCodeIsNeverTwo i s t hset h
    exact hcc
  | false =>
    obtain ⟨hcc, -⟩ := (exec_updates h).cc_of_false hset
    rwa [hcc]

theorem finishStep_refused {len : Nat} {rest : List Byte} {o : Result} {e : Refusal} :
    finishStep len rest o = .refused e ↔ o = .refused e := by
  cases o <;> simp [finishStep]

/-- Only the instruction of a step is refused for an unwritten read. -/
theorem step_unwrittenRead {s : State} (h : step s = .refused .unwrittenRead) :
    ∃ i, exec i s = .refused .unwrittenRead := by
  cases hdec : decode s.stream with
  | instr i rest =>
    rw [step_of_decode hdec] at h
    exact ⟨i, finishStep_refused.1 h⟩
  | unknownEncoding => simp [step, hdec] at h
  | reservedFieldNonzero => simp [step, hdec] at h
  | incomplete => simp [step, hdec] at h

/-- Settles O51: updates take no value away (`Updates.allSupplied`), a CC is kept or written as 0, 1 or 3
(`exec_keeps_cc_ne_two`), and a refusal would need a source without a value. -/
theorem suppliedStatesStaySound : Obligations.SuppliedStatesStaySound := by
  intro s hs hcc
  refine ⟨fun t h => ?_, fun h => ?_⟩
  · obtain ⟨i, rest, u, -, hexec, rfl⟩ := step_next.1 h
    have hcc' : u.cc ≠ 2#2 := exec_keeps_cc_ne_two hexec hcc
    exact ⟨(exec_updates hexec).allSupplied hs, hcc'⟩
  · obtain ⟨i, hi⟩ := step_unwrittenRead h
    obtain ⟨-, -, hreads⟩ := exec_refused.1 hi
    exact not_readsUnwritten_of_allSupplied hs i hreads

end Sys2Proof.Machine

/-! PROOFS. Memory: the canonical form along every step (O48), gather and scatter (O23, O24), a store that a load reads back
(O29), and what an instruction that stores nothing takes from memory (O39). -/

namespace Sys2Proof.Machine

/-! ### Every instruction is built from the named operations (00_scope.md R10, R12; 10_state.md R42) -/

/-- The meanings that reading, writing, accessing memory and raising SPECIFICATION build. Where `accesses` is false, no
part of one reaches memory. -/
inductive Meaning (accesses : Bool) : (State → Result) → Prop
  | done : Meaning accesses fun s => .next s
  | specification (m : Mnemonic) (f : FieldName) (v : Nat) : Meaning accesses fun s => raiseSpecification s m f v
  | readVR (r : VReg) {k : V128 → State → Result} (hk : ∀ x, Meaning accesses (k x)) :
      Meaning accesses fun s => readVR s r k
  | readGR (r : GReg) {k : Word64 → State → Result} (hk : ∀ x, Meaning accesses (k x)) :
      Meaning accesses fun s => readGR s r k
  | readBase (b : GReg) {k : Word64 → State → Result} (hk : ∀ x, Meaning accesses (k x)) :
      Meaning accesses fun s => readBase s b k
  | readCC {k : CondCode → State → Result} (hk : ∀ x, Meaning accesses (k x)) : Meaning accesses fun s => readCC s k
  | params {k : Config.Params → State → Result} (hk : ∀ p, Meaning accesses (k p)) :
      Meaning accesses fun s => k s.params s
  | ite (c : Prop) [Decidable c] {k l : State → Result} (hk : Meaning accesses k) (hl : Meaning accesses l) :
      Meaning accesses fun s => if c then k s else l s
  | writeVR (r : VReg) (v : V128) {k : State → Result} (hk : Meaning accesses k) :
      Meaning accesses fun s => k (s.writeVR r v)
  | writeGR (r : GReg) (v : Word64) {k : State → Result} (hk : Meaning accesses k) :
      Meaning accesses fun s => k (s.writeGR r v)
  | writeCC (c : CondCode) {k : State → Result} (hk : Meaning accesses k) : Meaning accesses fun s => k (s.writeCC c)
  | memRead (ha : accesses = true) (m : Mnemonic) (a : Addr) (n : Nat) {k : List Byte → State → Result}
      (hk : ∀ bs, Meaning accesses (k bs)) : Meaning accesses fun s => memRead s m a n fun bs => k bs s
  | memWrite (ha : accesses = true) (m : Mnemonic) (a : Addr) (bs : List Byte) :
      Meaning accesses fun s => memWrite s m a bs
  | falseAccess (ha : accesses = true) (m : Mnemonic) (dir : Direction) (a : Addr) (n : Nat) :
      Meaning accesses fun s => falseAccess s m dir a n

namespace Meaning

variable {accesses : Bool} {m : Mnemonic}

/-- VLL reads V1 for its tail as the parameters say (R296). -/
theorem readTail (v1 : VReg) (len : Nat) {k : V128 → State → Result} (hk : ∀ x, Meaning accesses (k x)) :
    Meaning accesses fun s => Machine.readTail s v1 len k := by
  simp only [readTail_eq]
  exact .params (k := fun p s => if len < 16 ∧ p.vllTail = .preserve then Machine.readVR s v1 k else k 0#128 s)
    fun p => .ite _ (.readVR v1 hk) (hk _)

theorem writeVR_cs {r : VReg} {v : V128} {cs : Bool} {c : CondCode} :
    Meaning accesses fun s => .next (if cs then (s.writeVR r v).writeCC c else s.writeVR r v) := by
  cases cs with
  | false => exact .writeVR r v .done
  | true => exact .writeVR r v (.writeCC c .done)

/-! Each shape of instruction, following its definition. -/

theorem vectorBinary {v1 v2 v3 : VReg} {m4 : MField} {legal : Bool} {f : V128 → V128 → V128} :
    Meaning accesses fun s => Machine.vectorBinary s m v1 v2 v3 m4 legal f :=
  .readVR v2 fun _ => .readVR v3 fun _ => .ite _ (.writeVR v1 _ .done) (.specification ..)

theorem laneBinary {v1 v2 v3 : VReg} {m4 : MField} {maxCode : Nat} {op : Int → Int → Int} {sg : Sign}
    {rg : ElementRange} {ow : OutWidth} :
    Meaning accesses fun s => Machine.laneBinary s m v1 v2 v3 m4 maxCode op sg rg ow :=
  vectorBinary

/-- VAVG and VAVGL round as the parameters say (R148). -/
theorem average {v1 v2 v3 : VReg} {m4 : MField} {maxCode : Nat} {sg : Sign} {rg : ElementRange} {ow : OutWidth} :
    Meaning accesses fun s => Machine.laneBinary s m v1 v2 v3 m4 maxCode (avg s.params.avgRound) sg rg ow :=
  .params (k := fun p s => Machine.laneBinary s m v1 v2 v3 m4 maxCode (avg p.avgRound) sg rg ow) fun _ => laneBinary

theorem vectorLogic {v1 v2 v3 : VReg} {f : V128 → V128 → V128} :
    Meaning accesses fun s => Machine.vectorLogic s v1 v2 v3 f :=
  .readVR v2 fun _ => .readVR v3 fun _ => .writeVR v1 _ .done

theorem vectorUnary {v1 v2 : VReg} {m3 : MField} {maxCode : Nat} {f : V128 → V128} :
    Meaning accesses fun s => Machine.vectorUnary s m v1 v2 m3 maxCode f :=
  .readVR v2 fun _ => .ite _ (.writeVR v1 _ .done) (.specification ..)

theorem unpack {v1 v2 : VReg} {m3 : MField} {sg : Sign} {rg : ElementRange} :
    Meaning accesses fun s => Machine.unpack s m v1 v2 m3 sg rg :=
  vectorUnary

theorem vectorTernary {v1 v2 v3 v4 : VReg} {f : V128 → V128 → V128 → V128} :
    Meaning accesses fun s => Machine.vectorTernary s v1 v2 v3 v4 f :=
  .readVR v2 fun _ => .readVR v3 fun _ => .readVR v4 fun _ => .writeVR v1 _ .done

theorem packSaturate {v1 v2 v3 : VReg} {m4 m5 : MField} {src dst : Sign} :
    Meaning accesses fun s => Machine.packSaturate s m v1 v2 v3 m4 m5 src dst :=
  .readVR v2 fun _ => .readVR v3 fun _ => .ite _ writeVR_cs (.specification ..)

theorem compareHigh {v1 v2 v3 : VReg} {m4 m5 : MField} {sg : Sign} :
    Meaning accesses fun s => Machine.compareHigh s m v1 v2 v3 m4 m5 sg :=
  .readVR v2 fun _ => .readVR v3 fun _ => .ite _ writeVR_cs (.specification ..)

theorem gather {w : Nat} {v1 v2 : VReg} {d2 : BitVec 12} {b2 : GReg} {m3 : MField} :
    Meaning true fun s => Machine.gather s m w v1 d2 v2 b2 m3 :=
  .readVR v1 fun _ => .readBase b2 fun _ => .readVR v2 fun _ => .ite _ (.specification ..)
    (.memRead rfl _ _ _ fun _ => .writeVR v1 _ .done)

theorem scatter {w : Nat} {v1 v2 : VReg} {d2 : BitVec 12} {b2 : GReg} {m3 : MField} :
    Meaning true fun s => Machine.scatter s m w v1 d2 v2 b2 m3 :=
  .readVR v1 fun _ => .readBase b2 fun _ => .readVR v2 fun _ => .ite _ (.specification ..) (.memWrite rfl ..)

end Meaning

theorem exec_meaning (i : Instr) : Meaning (accessesMemory i) fun s => exec i s := by
  cases i with dsimp only [exec, accessesMemory]
  | va | vs | vmx | vmxl | vmn | vmnl | vml | vmh | vmlh | vme | vmle | vmo | vmlo => exact .laneBinary
  | vavg | vavgl => exact .average
  | vpk | vmrh | vmrl => exact .vectorBinary
  | vn | vnc | vo | vno | vx | vpdi => exact .vectorLogic
  | vlc | vlp | vpopct | vclz | vctz => exact .vectorUnary
  | vuph | vupl | vuplh | vupll => exact .unpack
  | vpks => exact .packSaturate
  | vpkls v1 v2 v3 m4 m5 =>
    exact .params (k := fun p s => packSaturate s .vpkls v1 v2 v3 m4 m5 (pklsSign p.pklsSrc) .unsigned)
      fun _ => .packSaturate
  | vch | vchl => exact .compareHigh
  | vperm | vsel => exact .vectorTernary
  | vrep v1 v3 =>
    exact .readVR v3 fun _ => .ite _ (.specification ..) (.ite _ (.specification ..) (.writeVR v1 _ .done))
  | vrepi v1 => exact .ite _ (.specification ..) (.writeVR v1 _ .done)
  | vgef | vgeg => exact .gather
  | vscef | vsceg => exact .scatter
  | vll v1 r3 _ b2 =>
    exact .readGR r3 fun _ => .readBase b2 fun _ => .readTail v1 _ fun _ =>
      .memRead rfl _ _ _ fun _ => .writeVR v1 _ .done
  | vstl v1 r3 _ b2 => exact .readGR r3 fun _ => .readBase b2 fun _ => .readVR v1 fun _ => .memWrite rfl ..
  | lcbb r1 _ x2 b2 =>
    exact .readBase x2 fun _ => .readBase b2 fun _ => .readGR r1 fun _ =>
      .ite _ (.specification ..) (.writeGR r1 _ (.writeCC _ .done))
  | locr r1 r2 =>
    exact .readCC fun _ => .ite _ (.readGR r1 fun _ => .readGR r2 fun _ => .writeGR r1 _ .done) .done
  | locgr r1 r2 => exact .readCC fun _ => .ite _ (.readGR r2 fun _ => .writeGR r1 _ .done) .done
  | loc r1 _ b2 =>
    exact .readBase b2 fun _ => .readCC fun _ => .ite _
      (.readGR r1 fun _ => .memRead rfl _ _ _ fun _ => .writeGR r1 _ .done) (.falseAccess rfl ..)
  | locg r1 _ b2 =>
    exact .readBase b2 fun _ => .readCC fun _ => .ite _
      (.memRead rfl _ _ _ fun _ => .writeGR r1 _ .done) (.falseAccess rfl ..)
  | stoc r1 _ b2 | stocg r1 _ b2 =>
    exact .readBase b2 fun _ => .readCC fun _ => .ite _
      (.readGR r1 fun _ => .memWrite rfl ..) (.falseAccess rfl ..)

/-! ### Memory stays in canonical form (log entry 3) -/

/-- A fault leaves memory as it was, but for bytes of a store that were drawn as written before the refused one (R356,
R357). -/
theorem Meaning.fault_mem {accesses : Bool} {k : State → Result} (hk : Meaning accesses k) {s : State} {f : Fault}
    (h : k s = .fault f) : ∃ a d bs, (faultState f).mem = s.mem.writeDrawn a d bs := by
  induction hk generalizing s with
  | done => cases h
  | specification => cases h; exact ⟨0, 0, [], rfl⟩
  | readVR r _ ih => simpa using ih _ (readVR_fault.1 h).2
  | readGR r _ ih => simpa using ih _ (readGR_fault.1 h).2
  | readBase b _ ih => simpa using ih _ (readBase_fault.1 h).2
  | readCC _ ih => simpa using ih _ (readCC_fault.1 h).2
  | params _ ih => exact ih _ h
  | ite c _ _ ihk ihl =>
    split_ifs at h
    · exact ihk h
    · exact ihl h
  | writeVR _ _ _ ih | writeGR _ _ _ ih | writeCC _ _ ih => simpa using ih h
  | memRead _ _ a n _ ih =>
    rcases memRead_fault.1 h with ⟨p, code, -, rfl⟩ | ⟨-, h⟩
    · exact ⟨0, 0, [], rfl⟩
    · exact ih _ h
  | memWrite _ _ a bs =>
    obtain ⟨p, code, -, rfl⟩ := memWrite_fault.1 h
    exact ⟨a, s.draws, bs.take p, rfl⟩
  | falseAccess =>
    obtain ⟨-, -, p, code, -, rfl⟩ := falseAccess_fault.1 h
    exact ⟨0, 0, [], rfl⟩

/-- Settles O48: a step that completes updates and advances (`Updates.wf`), and a fault leaves memory but for drawn bytes
(`Meaning.fault_mem`); writing a byte keeps the canonical form either way. -/
theorem stepKeepsMemoryCanonical : Obligations.StepKeepsMemoryCanonical := by
  intro s hwf
  refine ⟨fun t h => ?_, fun f h => ?_⟩
  · obtain ⟨i, rest, u, -, hexec, rfl⟩ := step_next.1 h
    exact (exec_updates hexec).wf hwf
  · obtain ⟨i, rest, -, hexec⟩ := step_fault.1 h
    obtain ⟨a, d, bs, hmem⟩ := (exec_meaning i).fault_mem hexec
    rw [State.wf, hmem]
    exact Mem.wf_writeDrawn a d bs hwf

/-! ### Gather and scatter (45_element_memory.md R290 to R294) -/

section
variable {s t : State} {m : Mnemonic} {w : Nat} {v1 v2 : VReg} {d2 : BitVec 12} {b2 : GReg} {m3 : MField} {ea : Addr}

theorem gather_next (hea : ea = vrvAddress ((s.afterVR v1).baseValue b2) d2
      (((s.afterVR v1).afterBase b2).vrValue v2) w m3) :
    gather s m w v1 d2 v2 b2 m3 = .next t ↔
      s.vrReadable v1 = true ∧ s.baseReadable b2 = true ∧ s.vrReadable v2 = true ∧ m3.toNat < elemCount w ∧
        Admits s.mem .read ea w ∧
        t = (((s.afterVR v1).afterBase b2).afterVR v2).writeVR v1
          (setElem (s.vrValue v1) w m3.toNat (beWord w (s.mem.bytesAt ea w))) := by
  subst hea
  by_cases hm : m3.toNat < elemCount w
  · simp [gather, readVR_next, readBase_next, memRead_next, Mem.firstRefused_eq_none, Admits, hm, not_le.2 hm,
      eq_comm (b := t)]
  · simp [gather, readVR_next, readBase_next, hm, not_lt.1 hm]

theorem scatter_next (hea : ea = vrvAddress ((s.afterVR v1).baseValue b2) d2
      (((s.afterVR v1).afterBase b2).vrValue v2) w m3) :
    scatter s m w v1 d2 v2 b2 m3 = .next t ↔
      s.vrReadable v1 = true ∧ s.baseReadable b2 = true ∧ s.vrReadable v2 = true ∧ m3.toNat < elemCount w ∧
        Admits s.mem .write ea w ∧
        t = (((s.afterVR v1).afterBase b2).afterVR v2).withMem
          (s.mem.writeBytes ea (beBytes w (elem (s.vrValue v1) w m3.toNat))) := by
  subst hea
  by_cases hm : m3.toNat < elemCount w
  · simp [scatter, readVR_next, readBase_next, memWrite_next, Mem.firstRefused_eq_none, Admits, hm, not_le.2 hm]
  · simp [scatter, readVR_next, readBase_next, hm, not_lt.1 hm]

end

/-- An element that `count(w)` numbers lies within the 16 bytes of its register (R11). -/
theorem mul_succ_le_of_lt_elemCount {w i : Nat} (hi : i < elemCount w) : w * (i + 1) ≤ 16 :=
  (Nat.mul_le_mul_left w hi).trans (Nat.mul_div_le 16 w)

theorem elem_byte_setElem_same {w i j : Nat} (v : V128) (x : BitVec (8 * w)) (hi : i < elemCount w) (hj : j < w) :
    elem (setElem v w i x) 1 (w * i + j) = x.extractLsb' (8 * (w - 1 - j)) 8 := by
  have hbytes := mul_succ_le_of_lt_elemCount hi
  rw [elem_byte _ _ _ hj hbytes, elem_setElem_same _ _ _ _ (by rw [Nat.mul_assoc]; omega)]

/-- Setting an element keeps the bytes of the others. -/
theorem elem_byte_setElem_of_ne {w i k : Nat} (v : V128) (x : BitVec (8 * w)) (hw : IsWidth w) (hi : i < elemCount w)
    (hk : k < 16) (hki : k / w ≠ i) : elem (setElem v w i x) 1 k = elem v 1 k := by
  have hpos : 0 < w := by rcases hw with rfl | rfl | rfl | rfl | rfl <;> decide
  have hcount : elemCount w * w = 16 := by rcases hw with rfl | rfl | rfl | rfl | rfl <;> rfl
  have hquot : k / w < elemCount w := Nat.div_lt_of_lt_mul (by rwa [Nat.mul_comm, hcount])
  have hrem : k % w < w := Nat.mod_lt k hpos
  have hbytes := mul_succ_le_of_lt_elemCount hi
  have hbytes' := mul_succ_le_of_lt_elemCount hquot
  rw [← Nat.div_add_mod k w, elem_byte _ _ _ hrem hbytes', elem_byte _ _ _ hrem hbytes',
    elem_setElem_of_ne _ _ _ _ _ (by rw [Nat.mul_assoc]; omega) (by rw [Nat.mul_assoc]; omega) hki.symm]

/-- A doubleword offset is added as it is. -/
theorem vrvAddress_doubleword (base : Word64) (d2 : BitVec 12) (offsets : V128) (m3 : MField) :
    vrvAddress base d2 offsets 8 m3 = base + d2.setWidth 64 + elem offsets 8 m3.toNat := by
  rw [vrvAddress, BitVec.setWidth_eq]

section
variable {s : State} {m : Mnemonic} {w : Nat} {v1 v2 : VReg} {d2 : BitVec 12} {b2 : GReg} {m3 : MField} {ea : Addr}

/-- What a gather that can read its sources and its operand leaves. -/
theorem gather_loads (hw : IsWidth w) (hea : ea = vrvAddress ((s.afterVR v1).baseValue b2) d2
      (((s.afterVR v1).afterBase b2).vrValue v2) w m3)
    (h1 : s.vrReadable v1 = true) (hb : s.baseReadable b2 = true) (h2 : s.vrReadable v2 = true)
    (hm : m3.toNat < elemCount w) (ha : Admits s.mem .read ea w) :
    ∃ t, gather s m w v1 d2 v2 b2 m3 = .next t ∧ t.vrHeld v1 = true ∧
      (∀ j, j < w → elem (t.vrAt v1) 1 (w * m3.toNat + j) = s.mem.byteAt (byteAddr ea j)) ∧
      (∀ k, k < 16 → k / w ≠ m3.toNat → elem (t.vrAt v1) 1 k = elem (s.vrValue v1) 1 k) ∧
      ChangesOnly s t (some v1) none false none := by
  have hnext := (gather_next (m := m) hea).2 ⟨h1, hb, h2, hm, ha, rfl⟩
  refine ⟨_, hnext, by simp [writeVR_vrHeld], fun j hj => ?_, fun k hk hne => ?_,
    (gather_updates hnext).changesOnly (absurd rfl)⟩
  · rw [writeVR_vrAt_self, elem_byte_setElem_same _ _ hm hj, extractLsb'_beWord _ _ (by simp) _ hj,
      Mem.getElem_bytesAt]
  · rw [writeVR_vrAt_self, elem_byte_setElem_of_ne _ _ hw hm hk hne]

/-- What a scatter that can read its sources and write its operand leaves. -/
theorem scatter_stores (hwf : s.wf = true) (hea : ea = vrvAddress ((s.afterVR v1).baseValue b2) d2
      (((s.afterVR v1).afterBase b2).vrValue v2) w m3)
    (h1 : s.vrReadable v1 = true) (hb : s.baseReadable b2 = true) (h2 : s.vrReadable v2 = true)
    (hm : m3.toNat < elemCount w) (ha : Admits s.mem .write ea w) :
    ∃ t, scatter s m w v1 d2 v2 b2 m3 = .next t ∧
      (∀ j, j < w → t.mem.byteAt (byteAddr ea j) = elem (s.vrValue v1) 1 (w * m3.toNat + j)) ∧
      ChangesOnly s t none none false (some (ea, w)) := by
  have hnext := (scatter_next (m := m) hea).2 ⟨h1, hb, h2, hm, ha, rfl⟩
  have hbytes := mul_succ_le_of_lt_elemCount hm
  have hle : w ≤ 16 := (Nat.le_mul_of_pos_right w (Nat.succ_pos _)).trans hbytes
  have hframe := (scatter_updates hnext).changesOnly fun _ => hwf
  rw [← hea] at hframe
  refine ⟨_, hnext, fun j hj => ?_, hframe⟩
  rw [withMem_mem, Mem.byteAt_writeBytes_inside hwf _ _ (by simp; omega) j (by simpa using hj), getElem_beBytes,
    elem_byte _ _ _ hj hbytes]

end

/-- Settles O23: VGEF and VGEG are the gather of 4 and of 8 bytes (`gather_loads`). -/
theorem gatherLoadsOneElement : Obligations.GatherLoadsOneElement := by
  intro s v1 d2 v2 b2 m3 h1 hb h2
  refine ⟨fun hm ha => ?_, fun hm ha => ?_⟩
  · exact gather_loads (by simp [IsWidth]) rfl h1 hb h2 (Nat.lt_succ_of_le hm) ha
  · exact gather_loads (by simp [IsWidth]) (vrvAddress_doubleword ..).symm h1 hb h2 (Nat.lt_succ_of_le hm) ha

/-- Settles O24: VSCEF and VSCEG are the scatter of 4 and of 8 bytes (`scatter_stores`). -/
theorem scatterStoresOneElement : Obligations.ScatterStoresOneElement := by
  intro s v1 d2 v2 b2 m3 hwf h1 hb h2
  refine ⟨fun hm ha => ?_, fun hm ha => ?_⟩
  · exact scatter_stores hwf rfl h1 hb h2 (Nat.lt_succ_of_le hm) ha
  · exact scatter_stores hwf (vrvAddress_doubleword ..).symm h1 hb h2 (Nat.lt_succ_of_le hm) ha

/-! ### A store that a load reads back (20_memory.md R63, R65) -/

section
variable {s : State} (hs : s.AllSupplied)
include hs

theorem State.AllSupplied.afterBase (b : GReg) : s.afterBase b = s := by
  obtain ⟨-, hgr, -⟩ := hs
  simp [State.afterBase, afterGR_of_held (hgr b)]

theorem State.AllSupplied.baseReadable (b : GReg) : s.baseReadable b = true := by
  obtain ⟨-, hgr, -⟩ := hs
  simp [State.baseReadable, State.grReadable, hgr b]

theorem execVstl_next_of_allSupplied {t : State} {v1 : VReg} {r3 b2 : GReg} {d2 : BitVec 12}
    (h : execVstl v1 r3 d2 b2 s = .next t) :
    t = s.withMem (s.mem.writeBytes (vrsAddress (s.baseValue b2) d2)
      ((List.range (boundedLength (s.grAt r3))).map fun j => elem (s.vrAt v1) 1 j)) := by
  have ⟨hvr, hgr, _⟩ := hs
  simp only [execVstl, readGR_next, readBase_next, readVR_next, memWrite_next, afterGR_of_held (hgr r3),
    grValue_of_held (hgr r3), hs.afterBase, afterVR_of_held (hvr v1), vrValue_of_held (hvr v1)] at h
  obtain ⟨-, -, -, -, rfl⟩ := h
  rfl

end

@[simp] theorem withMem_baseValue (s : State) (m : Mem) (b : GReg) : (s.withMem m).baseValue b = s.baseValue b := rfl

theorem execLocg_loads {s : State} {r1 b2 : GReg} {d2 : BitVec 20} {m3 : MField} (hb : s.baseReadable b2 = true)
    (hcc : s.ccReadable = true) (hc : condHolds m3 (s.afterBase b2).ccValue = true)
    (ha : Admits s.mem .read (rsyAddress (s.baseValue b2) d2) 8) :
    execLocg r1 d2 b2 m3 s = .next ((s.afterBase b2).afterCC.writeGR r1
      (beWord 8 (s.mem.bytesAt (rsyAddress (s.baseValue b2) d2) 8))) := by
  have hadm : s.mem.firstRefused .read (rsyAddress (s.baseValue b2) d2) 8 = none := Mem.firstRefused_eq_none.2 ha
  simp [execLocg, readBase_next, readCC_next, memRead_next, hb, hcc, hc, hadm]

theorem boundedLength_eq_sixteen {x : Word64} (h : 15 ≤ x.toNat % 2 ^ 32) : boundedLength x = 16 := by
  have hlow : (low32 x).toNat = x.toNat % 2 ^ 32 := by simp [low32]
  rw [boundedLength, hlow]
  omega

/-- Where a whole register has been stored, its bytes 0 to 7 are those of its doubleword 0. -/
theorem bytesAt_writeBytes_register {m : Mem} (hwf : m.wf = true) (a : Addr) (v : V128) :
    (m.writeBytes a ((List.range 16).map fun j => elem v 1 j)).bytesAt a 8 = beBytes 8 (elem v 8 0) := by
  apply List.ext_getElem
  · simp
  · intro j hj _
    have hj8 : j < 8 := by simpa using hj
    have hbyte := elem_byte v 0 j hj8 (by decide)
    rw [Mem.getElem_bytesAt, Mem.byteAt_writeBytes_inside hwf _ _ (by simp) j (by simp; omega), getElem_beBytes]
    simpa using hbyte

/-- Settles O29: the store leaves doubleword 0 big-endian at the address (`bytesAt_writeBytes_register`), and the load
reads those bytes big-endian. -/
theorem storeBytesThenLoadDoubleword : Obligations.StoreBytesThenLoadDoubleword := by
  intro s t v1 r3 d2 b2 r1 d b m3 hwf hs hlen hstore hea hcond hadm
  have ht := execVstl_next_of_allSupplied hs hstore
  rw [boundedLength_eq_sixteen hlen] at ht
  have hts : t.AllSupplied := (exec_updates hstore).allSupplied hs
  have hrefusals : t.mem.refusals = s.mem.refusals := (exec_updates hstore).refusals
  have ⟨_, _, hcc⟩ := hts
  have hbase : t.baseValue b = s.baseValue b := by rw [ht, withMem_baseValue]
  have hcc' : t.cc = s.cc := by rw [ht, withMem_cc]
  have haddr : rsyAddress (t.baseValue b) d = vrsAddress (s.baseValue b2) d2 := by
    rw [hbase, rsyAddress, hea, vrsAddress]
  have hload := execLocg_loads (s := t) (r1 := r1) (b2 := b) (d2 := d) (m3 := m3) (hts.baseReadable b)
    (by simp [State.ccReadable, hcc])
    (by rw [hts.afterBase, ccValue_of_held hcc, hcc']; exact hcond)
    (fun j hj => by rw [hbase, Mem.refusal, hrefusals]; exact hadm j hj)
  refine ⟨_, hload, ?_⟩
  calc _ = beWord 8 (t.mem.bytesAt (rsyAddress (t.baseValue b) d) 8) := writeGR_grAt_self ..
    _ = beWord 8 (beBytes 8 (elem (s.vrAt v1) 8 0)) := by
      rw [haddr, ht, withMem_mem, bytesAt_writeBytes_register hwf]
    _ = elem (s.vrAt v1) 8 0 := beWord_beBytes ..

/-! ### Instructions that store nothing, over another memory (20_memory.md R61, R68, R70) -/

/-- Two memories have the same bytes at an access and refuse the same of them. -/
def Mem.AgreesAt (m m' : Mem) (dir : Direction) (a : Addr) (n : Nat) : Prop :=
  ∀ j, j < n → m.byteAt (byteAddr a j) = m'.byteAt (byteAddr a j) ∧
    m.refusal dir (byteAddr a j) = m'.refusal dir (byteAddr a j)

section
variable {m m' : Mem} {dir : Direction} {a : Addr} {n : Nat}

theorem Mem.AgreesAt.bytesAt (h : m.AgreesAt m' dir a n) : m.bytesAt a n = m'.bytesAt a n := by
  apply List.map_congr_left
  intro j hj
  exact (h j (List.mem_range.1 hj)).1

theorem Mem.AgreesAt.firstRefused (h : m.AgreesAt m' dir a n) : m.firstRefused dir a n = m'.firstRefused dir a n := by
  simp only [Mem.firstRefused, ← List.head?_filterMap]
  rw [List.filterMap_congr fun j hj => by rw [(h j (List.mem_range.1 hj)).2]]

end

section
variable (s : State) (m : Mem)

@[simp] theorem withMem_afterVR (r : VReg) : (s.withMem m).afterVR r = (s.afterVR r).withMem m := by
  unfold State.afterVR
  rw [withMem_vrHeld]
  split <;> rfl

@[simp] theorem withMem_afterGR (r : GReg) : (s.withMem m).afterGR r = (s.afterGR r).withMem m := by
  unfold State.afterGR
  rw [withMem_grHeld]
  split <;> rfl

@[simp] theorem withMem_afterCC : (s.withMem m).afterCC = s.afterCC.withMem m := by
  unfold State.afterCC
  rw [withMem_ccSupplied]
  split <;> rfl

@[simp] theorem withMem_afterBase (b : GReg) : (s.withMem m).afterBase b = (s.afterBase b).withMem m := by
  unfold State.afterBase
  split
  · rfl
  · exact withMem_afterGR ..

end

/-- Where `k` completes from `s`, it completes over the memory `m` too, with the same state but for the memory. -/
def Transfers (m : Mem) (k : State → Result) (s : State) : Prop :=
  ∀ ⦃t⦄, k s = .next t → k (s.withMem m) = .next (t.withMem m)

section
variable {m : Mem} {s : State} {mn : Mnemonic}

theorem transfers_writeVR {r : VReg} {v : V128} : Transfers m (fun s => .next (s.writeVR r v)) s := by
  intro t h
  cases h
  rfl

theorem transfers_writeGR {r : GReg} {v : Word64} : Transfers m (fun s => .next (s.writeGR r v)) s := by
  intro t h
  cases h
  rfl

theorem transfers_raiseSpecification {f : FieldName} {v : Nat} :
    Transfers m (fun s => raiseSpecification s mn f v) s :=
  fun _ h => absurd h (by simp)

/-! Each read passes the memory on to the rest of the instruction. -/

theorem transfers_readVR {r : VReg} {k : V128 → State → Result} (hk : Transfers m (k (s.vrValue r)) (s.afterVR r)) :
    Transfers m (fun s => readVR s r k) s := by
  intro t h
  obtain ⟨hr, h⟩ := readVR_next.1 h
  exact readVR_next.2 ⟨hr, by rw [withMem_afterVR]; exact hk h⟩

theorem transfers_readGR {r : GReg} {k : Word64 → State → Result} (hk : Transfers m (k (s.grValue r)) (s.afterGR r)) :
    Transfers m (fun s => readGR s r k) s := by
  intro t h
  obtain ⟨hr, h⟩ := readGR_next.1 h
  exact readGR_next.2 ⟨hr, by rw [withMem_afterGR]; exact hk h⟩

theorem transfers_readBase {b : GReg} {k : Word64 → State → Result}
    (hk : Transfers m (k (s.baseValue b)) (s.afterBase b)) : Transfers m (fun s => readBase s b k) s := by
  intro t h
  obtain ⟨hr, h⟩ := readBase_next.1 h
  exact readBase_next.2 ⟨hr, by rw [withMem_afterBase]; exact hk h⟩

theorem transfers_readCC {k : CondCode → State → Result} (hk : Transfers m (k s.ccValue) s.afterCC) :
    Transfers m (fun s => readCC s k) s := by
  intro t h
  obtain ⟨hr, h⟩ := readCC_next.1 h
  exact readCC_next.2 ⟨hr, by rw [withMem_afterCC]; exact hk h⟩

theorem transfers_ite {c : Prop} [Decidable c] {k l : State → Result} (hk : c → Transfers m k s)
    (hl : ¬ c → Transfers m l s) : Transfers m (fun s => if c then k s else l s) s := by
  by_cases hc : c
  · simpa only [hc, if_true] using hk hc
  · simpa only [hc, if_false] using hl hc

theorem transfers_readTail {v1 : VReg} {len : Nat} {k : V128 → State → Result}
    (hread : Transfers m (k (s.vrValue v1)) (s.afterVR v1)) (hzero : Transfers m (k 0#128) s) :
    Transfers m (fun s => readTail s v1 len k) s := by
  simp only [readTail_eq]
  intro t h
  exact transfers_ite (c := len < 16 ∧ s.params.vllTail = .preserve) (fun _ => transfers_readVR hread) (fun _ => hzero) h

/-! An access transfers between memories that agree there. -/

theorem transfers_memRead {a : Addr} {n : Nat} {k : List Byte → State → Result} (ha : m.AgreesAt s.mem .read a n)
    (hk : Transfers m (k (s.mem.bytesAt a n)) s) : Transfers m (fun s => memRead s mn a n fun bs => k bs s) s := by
  intro t h
  obtain ⟨hr, h⟩ := memRead_next.1 h
  exact memRead_next.2 ⟨ha.firstRefused.trans hr, by rw [withMem_mem, ha.bytesAt]; exact hk h⟩

theorem transfers_falseAccess {dir : Direction} {a : Addr} {n : Nat} (ha : m.AgreesAt s.mem dir a n) :
    Transfers m (fun s => falseAccess s mn dir a n) s := by
  intro t h
  simp only [falseAccess, withMem_params, withMem_mem, withMem_draws, ha.firstRefused] at h ⊢
  split at h
  · cases h; rfl
  · split at h
    · cases h; rfl
    · split_ifs at h with hd
      · simp at h
      · cases h
        exact if_neg hd

/-- A meaning that does not reach memory does the same over every memory. -/
theorem Meaning.transfers {accesses : Bool} {k : State → Result} (hk : Meaning accesses k) (hacc : accesses = false)
    (s : State) : Transfers m k s := by
  induction hk generalizing s with
  | done => intro t h; cases h; rfl
  | specification => exact transfers_raiseSpecification
  | readVR r _ ih => exact transfers_readVR (ih _ _)
  | readGR r _ ih => exact transfers_readGR (ih _ _)
  | readBase b _ ih => exact transfers_readBase (ih _ _)
  | readCC _ ih => exact transfers_readCC (ih _ _)
  | params _ ih => exact ih s.params s
  | ite c _ _ ihk ihl => exact transfers_ite (fun _ => ihk s) (fun _ => ihl s)
  | writeVR r v _ ih => exact ih (s.writeVR r v)
  | writeGR r v _ ih => exact ih (s.writeGR r v)
  | writeCC c _ ih => exact ih (s.writeCC c)
  | memRead ha | memWrite ha | falseAccess ha => simp [hacc] at ha

theorem exec_transfers {i : Instr} (hacc : accessesMemory i = false) : Transfers m (exec i) s :=
  (exec_meaning i).transfers hacc s

theorem gather_transfers {w : Nat} {v1 v2 : VReg} {d2 : BitVec 12} {b2 : GReg} {m3 : MField}
    (ha : m.AgreesAt s.mem .read (vrvAddress ((s.afterVR v1).baseValue b2) d2
      (((s.afterVR v1).afterBase b2).vrValue v2) w m3) w) :
    Transfers m (fun s => gather s mn w v1 d2 v2 b2 m3) s :=
  transfers_readVR <| transfers_readBase <| transfers_readVR <|
    transfers_ite (fun _ => transfers_raiseSpecification)
      (fun _ => transfers_memRead (by simpa using ha) transfers_writeVR)

theorem execVll_transfers {v1 : VReg} {r3 b2 : GReg} {d2 : BitVec 12}
    (ha : m.AgreesAt s.mem .read (vrsAddress ((s.afterGR r3).baseValue b2) d2) (boundedLength (s.grValue r3))) :
    Transfers m (execVll v1 r3 d2 b2) s :=
  transfers_readGR <| transfers_readBase <| transfers_readTail
    (transfers_memRead (by simpa using ha) transfers_writeVR) (transfers_memRead (by simpa using ha) transfers_writeVR)

section
variable {r1 b2 : GReg} {d2 : BitVec 20} {m3 : MField}

theorem execLoc_transfers (ha : m.AgreesAt s.mem .read (rsyAddress (s.baseValue b2) d2) 4) :
    Transfers m (execLoc r1 d2 b2 m3) s :=
  transfers_readBase <| transfers_readCC <| transfers_ite
    (fun _ => transfers_readGR <| transfers_memRead (by simpa using ha) transfers_writeGR)
    (fun _ => transfers_falseAccess (by simpa using ha))

theorem execLocg_transfers (ha : m.AgreesAt s.mem .read (rsyAddress (s.baseValue b2) d2) 8) :
    Transfers m (execLocg r1 d2 b2 m3) s :=
  transfers_readBase <| transfers_readCC <| transfers_ite
    (fun _ => transfers_memRead (by simpa using ha) transfers_writeGR)
    (fun _ => transfers_falseAccess (by simpa using ha))

/-- Of the stores on condition only those whose condition is false store nothing. -/
theorem execStoc_transfers (hc : condHolds m3 (s.afterBase b2).ccValue = false)
    (ha : m.AgreesAt s.mem .write (rsyAddress (s.baseValue b2) d2) 4) : Transfers m (execStoc r1 d2 b2 m3) s :=
  transfers_readBase <| transfers_readCC <| transfers_ite (fun htrue => absurd htrue (by simp [hc]))
    (fun _ => transfers_falseAccess (by simpa using ha))

theorem execStocg_transfers (hc : condHolds m3 (s.afterBase b2).ccValue = false)
    (ha : m.AgreesAt s.mem .write (rsyAddress (s.baseValue b2) d2) 8) : Transfers m (execStocg r1 d2 b2 m3) s :=
  transfers_readBase <| transfers_readCC <| transfers_ite (fun htrue => absurd htrue (by simp [hc]))
    (fun _ => transfers_falseAccess (by simpa using ha))

end

end

/-- Settles O39: the loads and the false stores transfer to a memory that agrees on their operand, and what does not reach
memory transfers to every one (`Meaning.transfers`). -/
theorem outcomeDependsOnOperandBytesOnly : Obligations.OutcomeDependsOnOperandBytesOnly := by
  intro i s t m hstored hagrees h
  cases hacc : accessesMemory i with
  | false => exact exec_transfers hacc h
  | true =>
    cases i with
    | vgef | vgeg => exact gather_transfers (hagrees _ _ _ rfl) h
    | vll => exact execVll_transfers (hagrees _ _ _ rfl) h
    | loc => exact execLoc_transfers (hagrees _ _ _ rfl) h
    | locg => exact execLocg_transfers (hagrees _ _ _ rfl) h
    | stoc => exact execStoc_transfers (by simpa [storedTo] using hstored) (hagrees _ _ _ rfl) h
    | stocg => exact execStocg_transfers (by simpa [storedTo] using hstored) (hagrees _ _ _ rfl) h
    | vscef | vsceg | vstl => cases hstored
    | _ => cases hacc

end Sys2Proof.Machine

/-! PROOFS. The decoder (30_encoding.md): fields and bytes of a word, the opcode table (O56), what a word decodes to (O55), and the
refusal of undecodable words (O46). -/

namespace Sys2Proof.Machine

open Sys2Proof.Laws (length_bytesOfWord)

/-! ### A field of a word (R92) -/

theorem getLsbD_place {n : Nat} (x : BitVec n) (lo k : Nat) :
    (place x lo).getLsbD k = (decide (k < 48) && (decide (lo ≤ k) && x.getLsbD (k - lo))) := by
  by_cases hk : k < 48 <;> by_cases hlo : lo ≤ k <;> simp [place, hk, hlo]

@[simp] theorem place_zero (n lo : Nat) : place (0#n) lo = 0#48 := by simp [place]

theorem place_and {n : Nat} (x : BitVec n) (lo : Nat) (w : BitVec 48) :
    place x lo &&& w = place (x &&& w.extractLsb' lo n) lo := by
  apply BitVec.eq_of_getLsbD_eq
  intro k hk
  rw [BitVec.getLsbD_and, getLsbD_place, getLsbD_place, BitVec.getLsbD_and, BitVec.getLsbD_extractLsb']
  by_cases hlo : lo ≤ k
  · by_cases hn : k - lo < n
    · simp [hlo, hn, Bool.and_assoc]
    · simp [hn, BitVec.getLsbD_of_ge x (k - lo) (by omega)]
  · simp [hlo]

/-- Placing a field where it was read keeps the field's bits of the word. -/
theorem place_extractLsb' (w : BitVec 48) (lo n : Nat) :
    place (w.extractLsb' lo n) lo = w &&& place (BitVec.allOnes n) lo := by
  rw [BitVec.and_comm, place_and, BitVec.and_comm, BitVec.and_allOnes]

@[simp] theorem extractLsb'_place {n : Nat} (x : BitVec n) {lo : Nat} (h : lo + n ≤ 48) :
    (place x lo).extractLsb' lo n = x := by
  apply BitVec.eq_of_getLsbD_eq
  intro k hk
  rw [BitVec.getLsbD_extractLsb', getLsbD_place]
  simp [hk, show lo + k < 48 by omega]

@[simp] theorem extractLsb'_place_of_disjoint {n : Nat} (x : BitVec n) {lo lo' k : Nat}
    (h : lo' + k ≤ lo ∨ lo + n ≤ lo') : (place x lo).extractLsb' lo' k = 0#k := by
  apply BitVec.eq_of_getLsbD_eq
  intro j hj
  rw [BitVec.getLsbD_extractLsb', getLsbD_place]
  rcases h with h | h
  · simp [show ¬ lo ≤ lo' + j by omega]
  · simp [BitVec.getLsbD_of_ge x (lo' + j - lo) (by omega)]

theorem placeVReg_vregField (w : BitVec 48) (lo rxb : Nat) :
    placeVReg (vregField w lo rxb) lo rxb = w &&& placeVReg (BitVec.allOnes 5) lo rxb := by
  have hlow : (vregField w lo rxb).extractLsb' 0 4 = w.extractLsb' lo 4 := BitVec.extractLsb'_append_eq_right
  have hhigh : (vregField w lo rxb).extractLsb' 4 1 = w.extractLsb' rxb 1 := BitVec.extractLsb'_append_eq_left
  rw [placeVReg, hlow, hhigh, place_extractLsb', place_extractLsb', ← BitVec.and_or_distrib_left]
  rfl

/-! ### The bytes of a word (R90) -/

theorem getLsbD_wordOfBytes (bs : List Byte) {k : Nat} (hk : k < 48) :
    (wordOfBytes bs).getLsbD k =
      if h : k < 8 * bs.length then (bs[bs.length - 1 - k / 8]'(by omega)).getLsbD (k % 8) else false := by
  rw [wordOfBytes, getLsbD_foldl_beWord _ _ _ _ hk]
  simp

theorem getElem_bytesOfWord (n : Nat) (w : BitVec 48) (j : Nat) (hj : j < (bytesOfWord n w).length) :
    (bytesOfWord n w)[j] = w.extractLsb' (8 * (n - 1 - j)) 8 := by
  simp [bytesOfWord]

theorem wordOfBytes_bytesOfWord {n : Nat} {w : BitVec 48} (hw : w.toNat < 2 ^ (8 * n)) : wordOfBytes (bytesOfWord n w) = w := by
  apply BitVec.eq_of_getLsbD_eq
  intro k hk
  rw [getLsbD_wordOfBytes _ hk]
  simp only [length_bytesOfWord]
  split_ifs with h
  · rw [getElem_bytesOfWord, BitVec.getLsbD_extractLsb', show 8 * (n - 1 - (n - 1 - k / 8)) + k % 8 = k by omega]
    simp [Nat.mod_lt k]
  · exact (Nat.testBit_lt_two_pow (hw.trans_le (Nat.pow_le_pow_right (by omega) (by omega)))).symm

theorem bytesOfWord_wordOfBytes {bs : List Byte} (h : bs.length ≤ 6) : bytesOfWord bs.length (wordOfBytes bs) = bs := by
  apply List.ext_getElem (length_bytesOfWord _ _)
  intro j hj hj'
  rw [getElem_bytesOfWord]
  apply BitVec.eq_of_getLsbD_eq
  intro k hk
  rw [BitVec.getLsbD_extractLsb', getLsbD_wordOfBytes _ (by omega), dif_pos (by omega)]
  have hbyte : bs.length - 1 - (8 * (bs.length - 1 - j) + k) / 8 = j := by omega
  have hbit : (8 * (bs.length - 1 - j) + k) % 8 = k := by omega
  simp [hbyte, hbit, hk]

theorem toNat_wordOfBytes_lt (bs : List Byte) : (wordOfBytes bs).toNat < 2 ^ (8 * bs.length) := by
  apply Nat.lt_pow_two_of_testBit
  intro k hk
  by_cases h48 : k < 48
  · have := getLsbD_wordOfBytes bs h48
    rwa [dif_neg (by omega)] at this
  · exact BitVec.getLsbD_of_ge _ _ (by omega)

/-! ### The opcode table (R92, R93, R116) -/

theorem pattern_and_opcodeMask (m : Mnemonic) :
    (opcodeRow m).pattern &&& opcodeMask (opcodeRow m).len = (opcodeRow m).pattern := by
  cases m <;> rfl

theorem mask_and_opcodeMask (m : Mnemonic) :
    (opcodeRow m).mask &&& opcodeMask (opcodeRow m).len = opcodeMask (opcodeRow m).len := by
  cases m <;> rfl

theorem lengthCode_pattern (m : Mnemonic) :
    lengthCode ((opcodeRow m).pattern.extractLsb' (8 * ((opcodeRow m).len - 1)) 8) = (opcodeRow m).len := by
  cases m <;> rfl

/-- No row before `m`'s own has its opcode. -/
theorem lookupOpcode_pattern (m : Mnemonic) : lookupOpcode (opcodeRow m).len (opcodeRow m).pattern = some m := by
  cases m <;> rfl

theorem lookupOpcode_eq_some {len : Nat} {op : BitVec 48} {m : Mnemonic} :
    lookupOpcode len op = some m ↔ (opcodeRow m).len = len ∧ (opcodeRow m).pattern = op := by
  constructor
  · intro h
    simpa using List.find?_some h
  · rintro ⟨rfl, rfl⟩
    exact lookupOpcode_pattern m

theorem lookupOpcode_eq_none {len : Nat} {op : BitVec 48} :
    lookupOpcode len op = none ↔ ∀ m, (opcodeRow m).len = len → (opcodeRow m).pattern ≠ op := by
  simp [Option.eq_none_iff_forall_ne_some, lookupOpcode_eq_some]

/-- The mask covers the opcode: a word that fits a row has the row's opcode. -/
theorem opcode_of_fits {m : Mnemonic} {w : BitVec 48} (h : w &&& (opcodeRow m).mask = (opcodeRow m).pattern) :
    w &&& opcodeMask (opcodeRow m).len = (opcodeRow m).pattern := by
  rw [← mask_and_opcodeMask, ← BitVec.and_assoc, h, pattern_and_opcodeMask]

/-- The opcode covers the first byte, which tells the length (R91). -/
theorem lengthCode_of_fits {m : Mnemonic} {w : BitVec 48} (h : w &&& (opcodeRow m).mask = (opcodeRow m).pattern) :
    lengthCode (w.extractLsb' (8 * ((opcodeRow m).len - 1)) 8) = (opcodeRow m).len := by
  have hones : (opcodeMask (opcodeRow m).len).extractLsb' (8 * ((opcodeRow m).len - 1)) 8 = BitVec.allOnes 8 := by
    rcases opcodeRow_len m with hlen | hlen <;> rw [hlen] <;> rfl
  have hbyte : w.extractLsb' (8 * ((opcodeRow m).len - 1)) 8 =
      (opcodeRow m).pattern.extractLsb' (8 * ((opcodeRow m).len - 1)) 8 := by
    rw [← opcode_of_fits h, BitVec.extractLsb'_and, hones, BitVec.and_allOnes]
  rw [hbyte, lengthCode_pattern]

/-- Settles O56: a word that fits two rows of one length has the opcode of both, and an opcode has one row. -/
theorem opcodeRowsDisjoint : Obligations.OpcodeRowsDisjoint := by
  intro m n w hne hlen hm hn
  have hpattern : (opcodeRow m).pattern = (opcodeRow n).pattern := by
    rw [← opcode_of_fits hm, ← opcode_of_fits hn, hlen]
  have hlookup := lookupOpcode_pattern m
  rw [hlen, hpattern, lookupOpcode_pattern] at hlookup
  exact hne (Option.some.inj hlookup).symm

/-! ### What a word decodes to -/

theorem decodeWord_eq_instr {len : Nat} {w : BitVec 48} {bs rest : List Byte} {i : Instr} :
    decodeWord len w bs = .instr i rest ↔
      ∃ m, (opcodeRow m).len = len ∧ w &&& (opcodeRow m).mask = (opcodeRow m).pattern ∧
        i = instrOfWord m w ∧ rest = bs := by
  constructor
  · intro h
    unfold decodeWord at h
    split at h
    · cases h
    next m hm =>
      split_ifs at h with hfit
      cases h
      exact ⟨m, (lookupOpcode_eq_some.1 hm).1, hfit, rfl, rfl⟩
  · rintro ⟨m, rfl, hfit, rfl, rfl⟩
    rw [decodeWord, opcode_of_fits hfit, lookupOpcode_pattern]
    exact if_pos hfit

theorem decodeWord_eq_reservedFieldNonzero {len : Nat} {w : BitVec 48} {bs : List Byte} :
    decodeWord len w bs = .reservedFieldNonzero ↔
      ∃ m, (opcodeRow m).len = len ∧ w &&& opcodeMask len = (opcodeRow m).pattern ∧
        w &&& (opcodeRow m).mask ≠ (opcodeRow m).pattern := by
  constructor
  · intro h
    unfold decodeWord at h
    split at h
    · cases h
    next m hm =>
      split_ifs at h with hfit
      obtain ⟨hlen, hop⟩ := lookupOpcode_eq_some.1 hm
      exact ⟨m, hlen, hop.symm, hfit⟩
  · rintro ⟨m, rfl, hop, hfit⟩
    rw [decodeWord, hop, lookupOpcode_pattern]
    exact if_neg hfit

theorem decodeWord_eq_unknownEncoding {len : Nat} {w : BitVec 48} {bs : List Byte} :
    decodeWord len w bs = .unknownEncoding ↔
      ∀ m, (opcodeRow m).len = len → w &&& opcodeMask len ≠ (opcodeRow m).pattern := by
  have hnone : decodeWord len w bs = .unknownEncoding ↔ lookupOpcode len (w &&& opcodeMask len) = none := by
    unfold decodeWord
    split
    · simp [*]
    · split_ifs <;> simp [*]
  simp only [hnone, lookupOpcode_eq_none, ne_comm]

/-- Decoding the bytes of a word is decoding the word, where the word's length is the one that its first byte tells. -/
theorem decode_bytesOfWord {n : Nat} {w : BitVec 48} (rest : List Byte) (hn : n ≠ 0) (hw : w.toNat < 2 ^ (8 * n))
    (hcode : lengthCode (w.extractLsb' (8 * (n - 1)) 8) = n) : decode (bytesOfWord n w ++ rest) = decodeWord n w rest := by
  have hlength := length_bytesOfWord n w
  cases hbytes : bytesOfWord n w with
  | nil => simp [hbytes, hn.symm] at hlength
  | cons b bs =>
    have hb : lengthCode b = n := by
      have := getElem_bytesOfWord n w 0 (by omega)
      simp only [hbytes, List.getElem_cons_zero] at this
      rw [this, Nat.sub_zero, hcode]
    have hbs : (b :: bs).length = n := by rw [← hbytes, hlength]
    rw [List.cons_append, decode, hb, ← List.cons_append, if_neg (by simp at hbs ⊢; omega), List.take_left' hbs,
      List.drop_left' hbs, ← hbytes, wordOfBytes_bytesOfWord hw]

/-- What decodes to an instruction begins with the bytes of a word that does. -/
theorem decode_eq_instr {bs rest : List Byte} {i : Instr} (h : decode bs = .instr i rest) :
    ∃ front, bs = front ++ rest ∧ decodeWord front.length (wordOfBytes front) rest = .instr i rest := by
  cases bs with
  | nil => cases h
  | cons b tail =>
    rw [decode] at h
    split_ifs at h with hlen
    obtain ⟨-, rfl⟩ := decodeWord_instr h
    refine ⟨(b :: tail).take (lengthCode b), (List.take_append_drop ..).symm, ?_⟩
    rwa [List.length_take_of_le (by omega)]

/-- Settles O55: the opcode of a word selects at most one row, and a word that fits a row has the row's opcode. -/
theorem decodeFollowsOpcodeTable : Obligations.DecodeFollowsOpcodeTable := by
  intro n w rest hn hw hcode
  have hpattern {m : Mnemonic} (hm : (opcodeRow m).len = n) :
      (opcodeRow m).pattern &&& opcodeMask n = (opcodeRow m).pattern := hm ▸ pattern_and_opcodeMask m
  rw [decode_bytesOfWord rest (by omega) hw hcode]
  refine ⟨?_, ?_, ?_⟩
  · constructor
    · rintro ⟨i, h⟩
      obtain ⟨m, hlen, hfit, -⟩ := decodeWord_eq_instr.1 h
      refine ⟨m, ⟨hlen, hfit⟩, fun m' ⟨hlen', hfit'⟩ => ?_⟩
      by_contra hne
      exact opcodeRowsDisjoint m' m w hne (hlen'.trans hlen.symm) hfit' hfit
    · rintro ⟨m, ⟨hlen, hfit⟩, -⟩
      exact ⟨_, decodeWord_eq_instr.2 ⟨m, hlen, hfit, rfl, rfl⟩⟩
  · rw [decodeWord_eq_reservedFieldNonzero]
    constructor
    · rintro ⟨m, hlen, hop, hnot⟩
      refine ⟨⟨m, hlen, by rw [hpattern hlen, hop]⟩, fun m' hlen' hfit' => ?_⟩
      have hsame : some m' = some m := by
        rw [← lookupOpcode_pattern m', ← lookupOpcode_pattern m, ← opcode_of_fits hfit', hlen', hlen, hop]
      cases hsame
      exact hnot hfit'
    · rintro ⟨⟨m, hlen, hop⟩, hnot⟩
      exact ⟨m, hlen, by rw [hop, hpattern hlen], hnot m hlen⟩
  · rw [decodeWord_eq_unknownEncoding]
    exact forall₂_congr fun m hlen => by rw [hpattern hlen]

/-! ### The undecodable words of a step (R93, R350) -/

/-- Settles O46: a step answers what decoding refuses by its own name, and an instruction is refused for an unwritten read only
(`exec_refused`). -/
theorem stepRefusesUndecodedWords : Obligations.StepRefusesUndecodedWords := by
  refine fun s => ⟨fun h => by simp [step, h], fun h => by simp [step, h], fun m h => ?_⟩
  cases hdec : decode s.stream with
  | instr i rest =>
    rw [step_of_decode hdec, finishStep_refused, exec_refused] at h
    cases h.1
  | unknownEncoding | reservedFieldNonzero | incomplete => simp [step, hdec] at h

end Sys2Proof.Machine

/-! PROOFS. The round trip of decoding and encoding (O53, O54) and its samples (O57), by the formats R97 to R108 of
30_encoding.md. -/

namespace Sys2Proof.Machine

/-! ### Encoding the fields that were read from a word keeps the word's operand fields, for each format -/

section
variable (m : Mnemonic) (w : BitVec 48)

theorem encodeVRRa_fields :
    encodeVRRa m (vregAt8 w) (vregAt12 w) (nibble w 12) = (opcodeRow m).pattern ||| w &&& 0x00FF0000FC00#48 := by
  simp only [encodeVRRa, vregAt8, vregAt12, nibble, placeVReg_vregField, place_extractLsb', BitVec.or_assoc,
    ← BitVec.and_or_distrib_left]
  rfl

theorem encodeVRRb_fields :
    encodeVRRb m (vregAt8 w) (vregAt12 w) (vregAt16 w) (nibble w 12) (nibble w 20) =
      (opcodeRow m).pattern ||| w &&& 0x00FFF0F0FE00#48 := by
  simp only [encodeVRRb, vregAt8, vregAt12, vregAt16, nibble, placeVReg_vregField, place_extractLsb', BitVec.or_assoc,
    ← BitVec.and_or_distrib_left]
  rfl

theorem encodeVRRc_fields :
    encodeVRRc m (vregAt8 w) (vregAt12 w) (vregAt16 w) (nibble w 12) =
      (opcodeRow m).pattern ||| w &&& 0x00FFF000FE00#48 := by
  simp only [encodeVRRc, vregAt8, vregAt12, vregAt16, nibble, placeVReg_vregField, place_extractLsb', BitVec.or_assoc,
    ← BitVec.and_or_distrib_left]
  rfl

/-- The five bitwise instructions have no M4: its field is reserved (R99, R115). -/
theorem encodeVRRc_fields_without_m4 :
    encodeVRRc m (vregAt8 w) (vregAt12 w) (vregAt16 w) 0#4 = (opcodeRow m).pattern ||| w &&& 0x00FFF0000E00#48 := by
  simp only [encodeVRRc, vregAt8, vregAt12, vregAt16, placeVReg_vregField, place_zero, BitVec.or_zero, BitVec.or_assoc,
    ← BitVec.and_or_distrib_left]
  rfl

theorem encodeVRRe_fields :
    encodeVRRe m (vregAt8 w) (vregAt12 w) (vregAt16 w) (vregAt32 w) =
      (opcodeRow m).pattern ||| w &&& 0x00FFF000FF00#48 := by
  simp only [encodeVRRe, vregAt8, vregAt12, vregAt16, vregAt32, placeVReg_vregField, BitVec.or_assoc,
    ← BitVec.and_or_distrib_left]
  rfl

theorem encodeVRIa_fields :
    encodeVRIa m (vregAt8 w) (imm16 w) (nibble w 12) = (opcodeRow m).pattern ||| w &&& 0x00F0FFFFF800#48 := by
  simp only [encodeVRIa, vregAt8, imm16, nibble, placeVReg_vregField, place_extractLsb', BitVec.or_assoc,
    ← BitVec.and_or_distrib_left]
  rfl

theorem encodeVRIc_fields :
    encodeVRIc m (vregAt8 w) (vregAt12 w) (imm16 w) (nibble w 12) =
      (opcodeRow m).pattern ||| w &&& 0x00FFFFFFFC00#48 := by
  simp only [encodeVRIc, vregAt8, vregAt12, imm16, nibble, placeVReg_vregField, place_extractLsb', BitVec.or_assoc,
    ← BitVec.and_or_distrib_left]
  rfl

theorem encodeVRSb_fields :
    encodeVRSb m (vregAt8 w) (nibble w 32) (disp12 w) (nibble w 28) =
      (opcodeRow m).pattern ||| w &&& 0x00FFFFFF0800#48 := by
  simp only [encodeVRSb, vregAt8, disp12, nibble, placeVReg_vregField, place_extractLsb', BitVec.or_assoc,
    ← BitVec.and_or_distrib_left]
  rfl

theorem encodeVRV_fields :
    encodeVRV m (vregAt8 w) (disp12 w) (vregAt12 w) (nibble w 28) (nibble w 12) =
      (opcodeRow m).pattern ||| w &&& 0x00FFFFFFFC00#48 := by
  simp only [encodeVRV, vregAt8, vregAt12, disp12, nibble, placeVReg_vregField, place_extractLsb', BitVec.or_assoc,
    ← BitVec.and_or_distrib_left]
  rfl

theorem encodeRXE_fields :
    encodeRXE m (nibble w 36) (disp12 w) (nibble w 32) (nibble w 28) (nibble w 12) =
      (opcodeRow m).pattern ||| w &&& 0x00FFFFFFF000#48 := by
  simp only [encodeRXE, disp12, nibble, place_extractLsb', BitVec.or_assoc, ← BitVec.and_or_distrib_left]
  rfl

theorem encodeRRFc_fields :
    encodeRRFc m (nibble w 4) (nibble w 0) (nibble w 12) = (opcodeRow m).pattern ||| w &&& 0x00000000F0FF#48 := by
  simp only [encodeRRFc, nibble, place_extractLsb', BitVec.or_assoc, ← BitVec.and_or_distrib_left]
  rfl

theorem encodeRSYb_fields :
    encodeRSYb m (nibble w 36) (disp20 w) (nibble w 28) (nibble w 32) =
      (opcodeRow m).pattern ||| w &&& 0x00FFFFFFFF00#48 := by
  simp only [encodeRSYb, disp20, nibble, BitVec.extractLsb'_append_eq_right, BitVec.extractLsb'_append_eq_left,
    place_extractLsb', BitVec.or_assoc, ← BitVec.and_or_distrib_left]
  rfl

end

/-! ### Reading the fields of an encoding, for each format -/

theorem extractLsb'_pattern {m : Mnemonic} {len lo n : Nat} (hlen : (opcodeRow m).len = len)
    (h : (opcodeMask len).extractLsb' lo n = 0#n) : (opcodeRow m).pattern.extractLsb' lo n = 0#n := by
  rw [← pattern_and_opcodeMask, hlen, BitVec.extractLsb'_and, h, BitVec.and_zero]

@[simp] theorem vreg_append (v : VReg) : v.extractLsb' 4 1 ++ v.extractLsb' 0 4 = v := BitVec.extractLsb'_append_extractLsb'

@[simp] theorem disp20_append (d : BitVec 20) : d.extractLsb' 12 8 ++ d.extractLsb' 0 12 = d :=
  BitVec.extractLsb'_append_extractLsb'

section
variable {m : Mnemonic} (hlen : (opcodeRow m).len = 6)
include hlen

theorem fields_encodeVRRa (v1 v2 : VReg) (m3 : MField) :
    vregAt8 (encodeVRRa m v1 v2 m3) = v1 ∧ vregAt12 (encodeVRRa m v1 v2 m3) = v2 ∧
      nibble (encodeVRRa m v1 v2 m3) 12 = m3 := by
  simp (disch := decide) [encodeVRRa, placeVReg, vregAt8, vregAt12, vregField, nibble, BitVec.extractLsb'_or,
    extractLsb'_pattern hlen]

theorem fields_encodeVRRb (v1 v2 v3 : VReg) (m4 m5 : MField) :
    vregAt8 (encodeVRRb m v1 v2 v3 m4 m5) = v1 ∧ vregAt12 (encodeVRRb m v1 v2 v3 m4 m5) = v2 ∧
      vregAt16 (encodeVRRb m v1 v2 v3 m4 m5) = v3 ∧ nibble (encodeVRRb m v1 v2 v3 m4 m5) 12 = m4 ∧
      nibble (encodeVRRb m v1 v2 v3 m4 m5) 20 = m5 := by
  simp (disch := decide) [encodeVRRb, placeVReg, vregAt8, vregAt12, vregAt16, vregField, nibble, BitVec.extractLsb'_or,
    extractLsb'_pattern hlen]

theorem fields_encodeVRRc (v1 v2 v3 : VReg) (m4 : MField) :
    vregAt8 (encodeVRRc m v1 v2 v3 m4) = v1 ∧ vregAt12 (encodeVRRc m v1 v2 v3 m4) = v2 ∧
      vregAt16 (encodeVRRc m v1 v2 v3 m4) = v3 ∧ nibble (encodeVRRc m v1 v2 v3 m4) 12 = m4 := by
  simp (disch := decide) [encodeVRRc, placeVReg, vregAt8, vregAt12, vregAt16, vregField, nibble, BitVec.extractLsb'_or,
    extractLsb'_pattern hlen]

theorem fields_encodeVRRe (v1 v2 v3 v4 : VReg) :
    vregAt8 (encodeVRRe m v1 v2 v3 v4) = v1 ∧ vregAt12 (encodeVRRe m v1 v2 v3 v4) = v2 ∧
      vregAt16 (encodeVRRe m v1 v2 v3 v4) = v3 ∧ vregAt32 (encodeVRRe m v1 v2 v3 v4) = v4 := by
  simp (disch := decide) [encodeVRRe, placeVReg, vregAt8, vregAt12, vregAt16, vregAt32, vregField, BitVec.extractLsb'_or,
    extractLsb'_pattern hlen]

theorem fields_encodeVRIa (v1 : VReg) (i2 : BitVec 16) (m3 : MField) :
    vregAt8 (encodeVRIa m v1 i2 m3) = v1 ∧ imm16 (encodeVRIa m v1 i2 m3) = i2 ∧
      nibble (encodeVRIa m v1 i2 m3) 12 = m3 := by
  simp (disch := decide) [encodeVRIa, placeVReg, vregAt8, vregField, imm16, nibble, BitVec.extractLsb'_or,
    extractLsb'_pattern hlen]

theorem fields_encodeVRIc (v1 v3 : VReg) (i2 : BitVec 16) (m4 : MField) :
    vregAt8 (encodeVRIc m v1 v3 i2 m4) = v1 ∧ vregAt12 (encodeVRIc m v1 v3 i2 m4) = v3 ∧
      imm16 (encodeVRIc m v1 v3 i2 m4) = i2 ∧ nibble (encodeVRIc m v1 v3 i2 m4) 12 = m4 := by
  simp (disch := decide) [encodeVRIc, placeVReg, vregAt8, vregAt12, vregField, imm16, nibble, BitVec.extractLsb'_or,
    extractLsb'_pattern hlen]

theorem fields_encodeVRSb (v1 : VReg) (r3 : GReg) (d2 : BitVec 12) (b2 : GReg) :
    vregAt8 (encodeVRSb m v1 r3 d2 b2) = v1 ∧ nibble (encodeVRSb m v1 r3 d2 b2) 32 = r3 ∧
      disp12 (encodeVRSb m v1 r3 d2 b2) = d2 ∧ nibble (encodeVRSb m v1 r3 d2 b2) 28 = b2 := by
  simp (disch := decide) [encodeVRSb, placeVReg, vregAt8, vregField, disp12, nibble, BitVec.extractLsb'_or,
    extractLsb'_pattern hlen]

theorem fields_encodeVRV (v1 : VReg) (d2 : BitVec 12) (v2 : VReg) (b2 : GReg) (m3 : MField) :
    vregAt8 (encodeVRV m v1 d2 v2 b2 m3) = v1 ∧ disp12 (encodeVRV m v1 d2 v2 b2 m3) = d2 ∧
      vregAt12 (encodeVRV m v1 d2 v2 b2 m3) = v2 ∧ nibble (encodeVRV m v1 d2 v2 b2 m3) 28 = b2 ∧
      nibble (encodeVRV m v1 d2 v2 b2 m3) 12 = m3 := by
  simp (disch := decide) [encodeVRV, placeVReg, vregAt8, vregAt12, vregField, disp12, nibble, BitVec.extractLsb'_or,
    extractLsb'_pattern hlen]

theorem fields_encodeRXE (r1 : GReg) (d2 : BitVec 12) (x2 b2 : GReg) (m3 : MField) :
    nibble (encodeRXE m r1 d2 x2 b2 m3) 36 = r1 ∧ disp12 (encodeRXE m r1 d2 x2 b2 m3) = d2 ∧
      nibble (encodeRXE m r1 d2 x2 b2 m3) 32 = x2 ∧ nibble (encodeRXE m r1 d2 x2 b2 m3) 28 = b2 ∧
      nibble (encodeRXE m r1 d2 x2 b2 m3) 12 = m3 := by
  simp (disch := decide) [encodeRXE, disp12, nibble, BitVec.extractLsb'_or, extractLsb'_pattern hlen]

theorem fields_encodeRSYb (r1 : GReg) (d2 : BitVec 20) (b2 : GReg) (m3 : MField) :
    nibble (encodeRSYb m r1 d2 b2 m3) 36 = r1 ∧ disp20 (encodeRSYb m r1 d2 b2 m3) = d2 ∧
      nibble (encodeRSYb m r1 d2 b2 m3) 28 = b2 ∧ nibble (encodeRSYb m r1 d2 b2 m3) 32 = m3 := by
  simp (disch := decide) [encodeRSYb, disp20, nibble, BitVec.extractLsb'_or, extractLsb'_pattern hlen]

end

theorem fields_encodeRRFc {m : Mnemonic} (hlen : (opcodeRow m).len = 4) (r1 r2 : GReg) (m3 : MField) :
    nibble (encodeRRFc m r1 r2 m3) 4 = r1 ∧ nibble (encodeRRFc m r1 r2 m3) 0 = r2 ∧
      nibble (encodeRRFc m r1 r2 m3) 12 = m3 := by
  simp (disch := decide) [encodeRRFc, nibble, BitVec.extractLsb'_or, extractLsb'_pattern hlen]

/-! ### Words and instructions -/

/-- The operand fields of a row's words (R97 to R108), each field whole: M5 of VRR-b and M4 of VPDI with their reserved bits, which
the mask covers too. -/
def fieldBits : Mnemonic → BitVec 48
  | .vlc | .vlp | .vpopct | .vclz | .vctz | .vuph | .vupl | .vuplh | .vupll => 0x00FF0000FC00#48
  | .vch | .vchl | .vpks | .vpkls => 0x00FFF0F0FE00#48
  | .va | .vs | .vavg | .vavgl | .vmx | .vmxl | .vmn | .vmnl | .vml | .vmh | .vmlh | .vme | .vmle | .vmo | .vmlo | .vpk
  | .vmrh | .vmrl | .vpdi => 0x00FFF000FE00#48
  | .vn | .vnc | .vo | .vno | .vx => 0x00FFF0000E00#48
  | .vperm | .vsel => 0x00FFF000FF00#48
  | .vrepi => 0x00F0FFFFF800#48
  | .vrep => 0x00FFFFFFFC00#48
  | .vll | .vstl => 0x00FFFFFF0800#48
  | .vgef | .vgeg | .vscef | .vsceg => 0x00FFFFFFFC00#48
  | .lcbb => 0x00FFFFFFF000#48
  | .locr | .locgr => 0x00000000F0FF#48
  | .loc | .locg | .stoc | .stocg => 0x00FFFFFFFF00#48

/-- Reading a word by the format of a row and writing it again keeps its operand fields and gives it the row's opcode. -/
theorem word_instrOfWord (m : Mnemonic) (w : BitVec 48) :
    (instrOfWord m w).word = (opcodeRow m).pattern ||| w &&& fieldBits m := by
  cases m with
  | vlc | vlp | vpopct | vclz | vctz | vuph | vupl | vuplh | vupll => exact encodeVRRa_fields _ w
  | vch | vchl | vpks | vpkls => exact encodeVRRb_fields _ w
  | va | vs | vavg | vavgl | vmx | vmxl | vmn | vmnl | vml | vmh | vmlh | vme | vmle | vmo | vmlo | vpk | vmrh | vmrl
  | vpdi => exact encodeVRRc_fields _ w
  | vn | vnc | vo | vno | vx => exact encodeVRRc_fields_without_m4 _ w
  | vperm | vsel => exact encodeVRRe_fields _ w
  | vrepi => exact encodeVRIa_fields _ w
  | vrep => exact encodeVRIc_fields _ w
  | vll | vstl => exact encodeVRSb_fields _ w
  | vgef | vgeg | vscef | vsceg => exact encodeVRV_fields _ w
  | lcbb => exact encodeRXE_fields _ w
  | locr | locgr => exact encodeRRFc_fields _ w
  | loc | locg | stoc | stocg => exact encodeRSYb_fields _ w

theorem instrOfWord_word (i : Instr) : instrOfWord i.mnemonic i.word = i := by
  cases i with
  | vlc | vlp | vpopct | vclz | vctz | vuph | vupl | vuplh | vupll =>
    simp (disch := decide) only [Instr.mnemonic, instrOfWord, Instr.word, fields_encodeVRRa]
  | vch | vchl | vpks | vpkls => simp (disch := decide) only [Instr.mnemonic, instrOfWord, Instr.word, fields_encodeVRRb]
  | va | vs | vavg | vavgl | vmx | vmxl | vmn | vmnl | vml | vmh | vmlh | vme | vmle | vmo | vmlo | vpk | vmrh | vmrl
  | vpdi | vn | vnc | vo | vno | vx =>
    simp (disch := decide) only [Instr.mnemonic, instrOfWord, Instr.word, fields_encodeVRRc]
  | vperm | vsel => simp (disch := decide) only [Instr.mnemonic, instrOfWord, Instr.word, fields_encodeVRRe]
  | vrepi => simp (disch := decide) only [Instr.mnemonic, instrOfWord, Instr.word, fields_encodeVRIa]
  | vrep => simp (disch := decide) only [Instr.mnemonic, instrOfWord, Instr.word, fields_encodeVRIc]
  | vll | vstl => simp (disch := decide) only [Instr.mnemonic, instrOfWord, Instr.word, fields_encodeVRSb]
  | vgef | vgeg | vscef | vsceg => simp (disch := decide) only [Instr.mnemonic, instrOfWord, Instr.word, fields_encodeVRV]
  | lcbb => simp (disch := decide) only [Instr.mnemonic, instrOfWord, Instr.word, fields_encodeRXE]
  | locr | locgr => simp (disch := decide) only [Instr.mnemonic, instrOfWord, Instr.word, fields_encodeRRFc]
  | loc | locg | stoc | stocg => simp (disch := decide) only [Instr.mnemonic, instrOfWord, Instr.word, fields_encodeRSYb]

theorem word_eq_pattern_or (i : Instr) :
    i.word = (opcodeRow i.mnemonic).pattern ||| i.word &&& fieldBits i.mnemonic := by
  rw [← word_instrOfWord, instrOfWord_word]

/-! ### The mask and the operand fields of a row -/

/-- All bits of a word of `n` bytes. -/
def wordBits (n : Nat) : BitVec 48 := place (BitVec.allOnes (8 * n)) 0

theorem and_wordBits {n : Nat} {w : BitVec 48} (h : w.toNat < 2 ^ (8 * n)) : w &&& wordBits n = w := by
  rw [wordBits, ← place_extractLsb']
  apply BitVec.eq_of_toNat_eq
  simp [place, Nat.mod_eq_of_lt h, Nat.mod_eq_of_lt w.isLt]

theorem mask_or_fieldBits (m : Mnemonic) : (opcodeRow m).mask ||| fieldBits m = wordBits (opcodeRow m).len := by
  cases m <;> rfl

theorem pattern_and_fieldBits (m : Mnemonic) : (opcodeRow m).pattern &&& fieldBits m = 0#48 := by
  cases m <;> rfl

theorem pattern_and_mask (m : Mnemonic) : (opcodeRow m).pattern &&& (opcodeRow m).mask = (opcodeRow m).pattern := by
  cases m <;> rfl

theorem toNat_pattern_lt (m : Mnemonic) : (opcodeRow m).pattern.toNat < 2 ^ (8 * (opcodeRow m).len) := by
  cases m <;> decide

theorem toNat_fieldBits_lt (m : Mnemonic) : (fieldBits m).toNat < 2 ^ (8 * (opcodeRow m).len) := by
  cases m <;> decide

theorem toNat_word_lt (i : Instr) : i.word.toNat < 2 ^ (8 * i.length) := by
  rw [word_eq_pattern_or, BitVec.toNat_or, BitVec.toNat_and]
  exact Nat.or_lt_two_pow (toNat_pattern_lt _) (Nat.and_lt_two_pow _ (toNat_fieldBits_lt _))

/-- The mask and the operand fields cover a word: one that fits the row is the encoding of what is read from it. -/
theorem word_instrOfWord_of_fits {m : Mnemonic} {w : BitVec 48} (hw : w.toNat < 2 ^ (8 * (opcodeRow m).len))
    (hfit : w &&& (opcodeRow m).mask = (opcodeRow m).pattern) : (instrOfWord m w).word = w := by
  rw [word_instrOfWord, ← hfit, ← BitVec.and_or_distrib_left, mask_or_fieldBits, and_wordBits hw]

/-! ### Well-formed instructions (R115) -/

theorem place_eq_zero_iff {n : Nat} {x : BitVec n} {lo : Nat} (h : lo + n ≤ 48) : place x lo = 0#48 ↔ x = 0#n := by
  constructor
  · intro hx
    rw [← extractLsb'_place x h, hx, BitVec.extractLsb'_zero]
  · rintro rfl
    exact place_zero n lo

/-- The reserved bits of a nibble are zero in the word where they are zero in the nibble. -/
theorem and_place_nibble_eq_zero_iff {w : BitVec 48} {k : BitVec 4} {lo : Nat} (h : lo + 4 ≤ 48) :
    w &&& place k lo = 0#48 ↔ nibble w lo &&& k = 0#4 := by
  rw [BitVec.and_comm, place_and, place_eq_zero_iff h, BitVec.and_comm, nibble]

theorem csFieldOk_iff {m : Mnemonic} (hlen : (opcodeRow m).len = 6) (v1 v2 v3 : VReg) (m4 m5 : MField) :
    csFieldOk m5 = true ↔ encodeVRRb m v1 v2 v3 m4 m5 &&& place 0b1110#4 20 = 0#48 := by
  obtain ⟨-, -, -, -, hm5⟩ := fields_encodeVRRb hlen v1 v2 v3 m4 m5
  rw [and_place_nibble_eq_zero_iff (by decide), hm5, csFieldOk, beq_iff_eq]

theorem vpdiFieldOk_iff {m : Mnemonic} (hlen : (opcodeRow m).len = 6) (v1 v2 v3 : VReg) (m4 : MField) :
    vpdiFieldOk m4 = true ↔ encodeVRRc m v1 v2 v3 m4 &&& place 0b1010#4 12 = 0#48 := by
  obtain ⟨-, -, -, hm4⟩ := fields_encodeVRRc hlen v1 v2 v3 m4
  rw [and_place_nibble_eq_zero_iff (by decide), hm4, vpdiFieldOk, beq_iff_eq]

/-- The reserved bits inside a field that is not wholly reserved (R115). -/
def reservedBits : Mnemonic → BitVec 48
  | .vch | .vchl | .vpks | .vpkls => place 0b1110#4 20
  | .vpdi => place 0b1010#4 12
  | _ => 0#48

theorem mask_and_fieldBits (m : Mnemonic) : (opcodeRow m).mask &&& fieldBits m = reservedBits m := by
  cases m <;> rfl

theorem wf_iff_reservedBits (i : Instr) : i.wf = true ↔ i.word &&& reservedBits i.mnemonic = 0#48 := by
  cases i with
  | vch | vchl | vpks | vpkls => exact csFieldOk_iff (by decide) ..
  | vpdi => exact vpdiFieldOk_iff (by decide) ..
  | _ => exact iff_of_true rfl BitVec.and_zero

/-- A well-formed instruction is one whose word fits its row. -/
theorem wf_iff_word_fits (i : Instr) :
    i.wf = true ↔ i.word &&& (opcodeRow i.mnemonic).mask = (opcodeRow i.mnemonic).pattern := by
  rw [wf_iff_reservedBits, ← mask_and_fieldBits, ← BitVec.and_assoc]
  constructor
  · intro h
    rw [word_eq_pattern_or, BitVec.and_or_distrib_right, pattern_and_mask, BitVec.and_assoc, BitVec.and_comm (fieldBits _),
      ← BitVec.and_assoc, h, BitVec.or_zero]
  · intro h
    rw [h, pattern_and_fieldBits]

/-! ### The round trip -/

/-- Settles O53: the word of a well-formed instruction fits its row, and reading it by the row's format gives the
instruction. -/
theorem decodeOfEncode : Obligations.DecodeOfEncode := by
  intro i rest hwf
  have hfit := (wf_iff_word_fits i).1 hwf
  have hpos : i.length ≠ 0 := by
    rcases opcodeRow_len i.mnemonic with h | h <;> simp [Instr.length, h]
  rw [encode, decode_bytesOfWord rest hpos (toNat_word_lt i) (lengthCode_of_fits hfit)]
  exact decodeWord_eq_instr.2 ⟨i.mnemonic, rfl, hfit, (instrOfWord_word i).symm, rfl⟩

/-- Settles O54: a word that fits a row is the word of the instruction that is read from it, and its bytes are the word's. -/
theorem encodeOfDecode : Obligations.EncodeOfDecode := by
  intro bs rest i h
  obtain ⟨front, rfl, hword⟩ := decode_eq_instr h
  obtain ⟨m, hlen, hfit, rfl, -⟩ := decodeWord_eq_instr.1 hword
  have hround := word_instrOfWord_of_fits (hlen ▸ toNat_wordOfBytes_lt front) hfit
  have hfront : front.length ≤ 6 := by
    rcases opcodeRow_len m with h | h <;> omega
  refine ⟨(wf_iff_word_fits _).2 ?_, ?_⟩
  · rw [hround, mnemonic_instrOfWord, hfit]
  · rw [encode, hround, Instr.length, mnemonic_instrOfWord, hlen, bytesOfWord_wordOfBytes hfront]

theorem decode_of_eq_encode {bs : List Byte} {i : Instr} (hwf : i.wf = true) (h : bs = encode i) :
    decode bs = .instr i [] := by
  rw [h, ← List.append_nil (encode i), decodeOfEncode i [] hwf]

/-- Settles O57: each word is the encoding of its instruction. -/
theorem sampleWordsDecode : Obligations.SampleWordsDecode := by
  refine ⟨?_, ?_, ?_, ?_, ?_, ?_, ?_, ?_, ?_, ?_, ?_⟩ <;> exact decode_of_eq_encode rfl (by decide)

end Sys2Proof.Machine

/-! PROOFS. VREPI and VPDI (O20, O21): what they make of an immediate and of M4's selectors (30_encoding.md R111, R112). -/

namespace Sys2Proof.Machine

/-! ### VREPI -/

theorem isWidth_width {code : MField} (h : code.toNat ≤ 4) : IsWidth (width code) := by
  rw [width]
  interval_cases code.toNat <;> simp [IsWidth]

/-- Every element of a replicated value is the value (R264, R265). -/
theorem elem_replicateElem {w i : Nat} (hw : IsWidth w) (x : BitVec (8 * w)) (hi : i < elemCount w) :
    elem (replicateElem w x) w i = x := by
  rw [replicateElem, elem_ofElems w _ i (by simpa using hi) (by simp [hw.elemCount_mul]), List.getElem_replicate]

theorem execVrepi_next {s t : State} {v1 : VReg} {i2 : BitVec 16} {m3 : MField} :
    execVrepi v1 i2 m3 s = .next t ↔
      m3.toNat ≤ 3 ∧ t = s.writeVR v1 (replicateElem (width m3) (i2.signExtend (8 * width m3))) := by
  by_cases hm : 3 < m3.toNat
  · simp [execVrepi, hm]
  · simp [execVrepi, BitVec.signExtend, hm, Nat.not_lt.1 hm, eq_comm (b := t)]

/-- Settles O20: VREPI replicates the sign-extended immediate. -/
theorem replicateImmediateExtends : Obligations.ReplicateImmediateExtends := by
  intro s v1 i2 m3 hm
  have hnext : execVrepi v1 i2 m3 s = .next _ := execVrepi_next.2 ⟨hm, rfl⟩
  refine ⟨_, hnext, by simp [writeVR_vrHeld], fun i hi => ?_, (execVrepi_updates hnext).changesOnly (by simp)⟩
  rw [writeVR_vrAt_self, elem_replicateElem (isWidth_width (by omega)) _ hi]

/-! ### VPDI -/

theorem vpdiSelectV2_eq (m4 : MField) : vpdiSelectV2 m4 = if m4.getLsbD 2 then 1 else 0 := by
  revert m4
  decide

theorem vpdiSelectV3_eq (m4 : MField) : vpdiSelectV3 m4 = if m4.getLsbD 0 then 1 else 0 := by
  revert m4
  decide

theorem elem_zero_append (x y : BitVec 64) : elem (x ++ y) 8 0 = x := BitVec.extractLsb'_append_eq_left

theorem elem_one_append (x y : BitVec 64) : elem (x ++ y) 8 1 = y := BitVec.extractLsb'_append_eq_right

/-- Settles O21: VPDI appends the two doublewords that the bits of M4 select. -/
theorem doublewordPermute : Obligations.DoublewordPermute := by
  intro s v1 v2 v3 m4 h2 h3
  have hnext : execVpdi v1 v2 v3 m4 s = .next _ := vectorLogic_next.2 ⟨h2, h3, rfl⟩
  refine ⟨_, hnext, ?_, by simp [writeVR_vrHeld], by simp, (vectorLogic_updates hnext).changesOnly (by simp)⟩
  rw [writeVR_vrAt_self, ← vpdiSelectV2_eq, ← vpdiSelectV3_eq]
  exact ⟨elem_zero_append .., elem_one_append ..⟩

end Sys2Proof.Machine

/-! PROOFS. Lane arithmetic and bitwise logic (O1 to O7): what each lane of a result is, as an operation on bit vectors or on the
integers that the lanes are read as (41_lane_arith.md). -/

namespace Sys2Proof.Machine

/-! ### Instructions that write one vector register from two -/

theorem writesFromTwo_of_next {i : Instr} {s : State} {v1 v2 v3 : VReg} {r : V128} {P : V128 → V128 → V128 → Prop}
    (hnext : exec i s = .next (((s.afterVR v2).afterVR v3).writeVR v1 r))
    (hP : P (s.vrValue v2) ((s.afterVR v2).vrValue v3) r) : WritesFromTwo i s v1 v2 v3 P := by
  have hupd : Updates (some v1) none false none s (((s.afterVR v2).afterVR v3).writeVR v1 r) :=
    ((Updates.refl.afterVR v2).afterVR v3).writeVR r rfl
  exact ⟨_, hnext, by rwa [writeVR_vrAt_self], by simp [writeVR_vrHeld], by simp, hupd.changesOnly (by simp)⟩

theorem writesFromTwo_of_vectorLogic {i : Instr} {s : State} {v1 v2 v3 : VReg} {P : V128 → V128 → V128 → Prop}
    (f : V128 → V128 → V128) (hexec : exec i s = vectorLogic s v1 v2 v3 f)
    (h2 : s.vrReadable v2 = true) (h3 : s.vrReadable v3 = true) (hP : ∀ a b, P a b (f a b)) :
    WritesFromTwo i s v1 v2 v3 P :=
  writesFromTwo_of_next (hexec.trans (vectorLogic_next.2 ⟨h2, h3, rfl⟩)) (hP ..)

theorem writesFromTwo_of_laneBinary {i : Instr} {s : State} {m : Mnemonic} {v1 v2 v3 : VReg} {m4 : MField}
    {maxCode : Nat} {op : Int → Int → Int} {k : Sign} {rg : ElementRange} {ow : OutWidth}
    {P : V128 → V128 → V128 → Prop} (hexec : exec i s = laneBinary s m v1 v2 v3 m4 maxCode op k rg ow)
    (hm : m4.toNat ≤ maxCode) (h2 : s.vrReadable v2 = true) (h3 : s.vrReadable v3 = true)
    (hP : ∀ a b, P a b (laneApply op a b (width m4) k rg ow)) : WritesFromTwo i s v1 v2 v3 P :=
  writesFromTwo_of_next (hexec.trans (vectorBinary_next.2 ⟨h2, h3, decide_eq_true hm, rfl⟩)) (hP ..)

/-- A lane-by-lane instruction, in terms of its lanes: each is `op` of the source lanes read per `k`, narrowed (R17). -/
theorem writesFromTwo_of_fullLanes {i : Instr} {s : State} {m : Mnemonic} {v1 v2 v3 : VReg} {m4 : MField}
    {maxCode : Nat} {op : Int → Int → Int} (k : Sign) {P : V128 → V128 → V128 → Prop}
    (hexec : exec i s = laneBinary s m v1 v2 v3 m4 maxCode op k .full .same)
    (hm : m4.toNat ≤ maxCode) (hw : IsWidth (width m4)) (h2 : s.vrReadable v2 = true) (h3 : s.vrReadable v3 = true)
    (hP : ∀ a b r, (∀ i, i < elemCount (width m4) → elem r (width m4) i =
      BitVec.ofInt (8 * width m4) (op (k.value (elem a (width m4) i)) (k.value (elem b (width m4) i)))) → P a b r) :
    WritesFromTwo i s v1 v2 v3 P := by
  refine writesFromTwo_of_laneBinary hexec hm h2 h3 fun a b => hP _ _ _ fun i hi => ?_
  rw [elem_laneApply_full hw _ _ _ _ _ hi, readElem_eq_value, readElem_eq_value]

/-! ### VN, VNC, VO, VNO and VX -/

/-- Settles O2: each instruction is one bit-vector operation, whose bits are those of its operands. -/
theorem bitwiseLogicPerBit : Obligations.BitwiseLogicPerBit := by
  intro s v1 v2 v3 h2 h3
  refine ⟨writesFromTwo_of_vectorLogic (fun a b => a &&& b) rfl h2 h3 ?and,
    writesFromTwo_of_vectorLogic (fun a b => a &&& ~~~b) rfl h2 h3 ?andComplement,
    writesFromTwo_of_vectorLogic (fun a b => a ||| b) rfl h2 h3 ?or,
    writesFromTwo_of_vectorLogic (fun a b => ~~~(a ||| b)) rfl h2 h3 ?nor,
    writesFromTwo_of_vectorLogic (fun a b => a ^^^ b) rfl h2 h3 ?xor⟩ <;> intro a b n hn
  case and => exact BitVec.getLsbD_and
  case andComplement => simp [hn]
  case or => exact BitVec.getLsbD_or
  case nor => simp [hn]
  case xor => exact BitVec.getLsbD_xor

/-! ### Sums, differences and products of lanes, narrowed -/

section
variable {n : Nat} (k : Sign) (x y : BitVec n)

theorem ofInt_value_add : BitVec.ofInt n (k.value x + k.value y) = x + y := by
  rw [BitVec.ofInt_add, ofInt_value, ofInt_value]

theorem ofInt_value_sub : BitVec.ofInt n (k.value x - k.value y) = x - y := by
  rw [Int.sub_eq_add_neg, BitVec.ofInt_add, BitVec.ofInt_neg, ofInt_value, ofInt_value, ← sub_eq_add_neg]

theorem ofInt_value_mul : BitVec.ofInt n (k.value x * k.value y) = x * y := by
  rw [BitVec.ofInt_mul, ofInt_value, ofInt_value]

end

/-- Settles O1: reading the lanes as integers and narrowing the sum or difference is the operation modulo 2^(8w). -/
theorem addAndSubtractWrapPerLane : Obligations.AddAndSubtractWrapPerLane := by
  intro s v1 v2 v3 m4 hm h2 h3
  have hw := isWidth_width hm
  exact ⟨writesFromTwo_of_fullLanes .unsigned rfl hm hw h2 h3 fun a b r hr i hi => (hr i hi).trans (ofInt_value_add ..),
    writesFromTwo_of_fullLanes .unsigned rfl hm hw h2 h3 fun a b r hr i hi => (hr i hi).trans (ofInt_value_sub ..)⟩

/-! ### Maxima and minima of lanes -/

/-- The signed or the unsigned order of bit vectors (R151 to R154). -/
def Sign.lt {n : Nat} (k : Sign) (x y : BitVec n) : Bool :=
  match k with
  | .signed => x.slt y
  | .unsigned => x.ult y

section
variable {n : Nat} (k : Sign) (x y : BitVec n)

theorem lt_iff_value_lt : k.lt x y = true ↔ k.value x < k.value y := by
  cases k with
  | signed => exact BitVec.slt_iff_toInt_lt
  | unsigned => exact BitVec.ult_iff_toNat_lt.trans Int.ofNat_lt.symm

theorem ofInt_max_value : BitVec.ofInt n (max (k.value x) (k.value y)) = if k.lt x y then y else x := by
  simp only [lt_iff_value_lt, max_def_lt]
  split <;> exact ofInt_value ..

theorem ofInt_min_value : BitVec.ofInt n (min (k.value x) (k.value y)) = if k.lt x y then x else y := by
  simp only [lt_iff_value_lt, min_def_lt]
  split <;> exact ofInt_value ..

end

/-- Settles O5: the maximum or minimum of two lanes is one of them, and narrowing gives that lane back. -/
theorem maximumAndMinimumPerLane : Obligations.MaximumAndMinimumPerLane := by
  intro s v1 v2 v3 m4 hm h2 h3
  have hw := isWidth_width hm
  exact ⟨writesFromTwo_of_fullLanes .signed rfl hm hw h2 h3 fun a b r hr i hi => (hr i hi).trans (ofInt_max_value ..),
    writesFromTwo_of_fullLanes .unsigned rfl hm hw h2 h3 fun a b r hr i hi => (hr i hi).trans (ofInt_max_value ..),
    writesFromTwo_of_fullLanes .signed rfl hm hw h2 h3 fun a b r hr i hi => (hr i hi).trans (ofInt_min_value ..),
    writesFromTwo_of_fullLanes .unsigned rfl hm hw h2 h3 fun a b r hr i hi => (hr i hi).trans (ofInt_min_value ..)⟩

/-! ### Averages (R148) -/

theorem avg_between {round : Config.AvgRound} {x y lo hi : Int} (hlx : lo ≤ x) (hly : lo ≤ y) (hxh : x ≤ hi)
    (hyh : y ≤ hi) : lo ≤ avg round x y ∧ avg round x y ≤ hi := by
  cases round <;> simp only [avg] <;> omega

theorem value_ofInt_avg {n : Nat} (hn : 0 < n) (k : Sign) (round : Config.AvgRound) (x y : BitVec n) :
    k.value (BitVec.ofInt n (avg round (k.value x) (k.value y))) = avg round (k.value x) (k.value y) := by
  obtain ⟨hlx, hxh⟩ := fits_value k x
  obtain ⟨hly, hyh⟩ := fits_value k y
  exact value_ofInt hn (avg_between hlx hly hxh hyh)

theorem IsWidth.one_lt_bits {w : Nat} (hw : IsWidth w) : 1 < 8 * w := by
  rcases hw with rfl | rfl | rfl | rfl | rfl <;> decide

/-- Settles O3: the average lies between its operands, so narrowing and reading it back gives it again. -/
theorem averageNeverWraps : Obligations.AverageNeverWraps := by
  intro s v1 v2 v3 m4 hm h2 h3
  have hw := isWidth_width hm
  have hpos := Nat.zero_lt_of_lt hw.one_lt_bits
  refine ⟨writesFromTwo_of_fullLanes .signed rfl hm hw h2 h3 fun a b r hr i hi => ?_,
    writesFromTwo_of_fullLanes .unsigned rfl hm hw h2 h3 fun a b r hr i hi => ?_⟩
  · have h := value_ofInt_avg hpos .signed s.params.avgRound (elem a (width m4) i) (elem b (width m4) i)
    rw [← hr i hi] at h
    cases hround : s.params.avgRound <;> rw [hround] at h <;> exact h
  · have h := value_ofInt_avg hpos .unsigned s.params.avgRound (elem a (width m4) i) (elem b (width m4) i)
    rw [← hr i hi] at h
    cases hround : s.params.avgRound <;> rw [hround] at h <;> (simp only [Sign.value, avg] at h ⊢; omega)

/-- `x >> 1`: an arithmetic shift for signed lanes, a logical one for unsigned (R148). -/
def Sign.halve {n : Nat} (k : Sign) (x : BitVec n) : BitVec n :=
  match k with
  | .signed => x.sshiftRight 1
  | .unsigned => x >>> 1

theorem ofInt_value_div_two {n : Nat} (k : Sign) (x : BitVec n) : BitVec.ofInt n (k.value x / 2) = k.halve x := by
  cases k with
  | signed =>
    rw [Sign.halve, BitVec.sshiftRight, Int.shiftRight_eq_div_pow, pow_one, Sign.value, Nat.cast_ofNat]
  | unsigned =>
    have hcast : Sign.unsigned.value x / 2 = (x.toNat / 2 : Nat) := rfl
    have hlt : x.toNat / 2 < 2 ^ n := Nat.lt_of_le_of_lt (Nat.div_le_self ..) x.isLt
    apply BitVec.eq_of_toNat_eq
    rw [hcast, BitVec.ofInt_natCast, BitVec.toNat_ofNat, Nat.mod_eq_of_lt hlt, Sign.halve, BitVec.toNat_ushiftRight,
      Nat.shiftRight_eq_div_pow, pow_one]

theorem natCast_toNat_ofInt (n : Nat) (z : Int) : ((BitVec.ofInt n z).toNat : Int) = z % 2 ^ n := by
  rw [BitVec.toNat_ofInt, Nat.cast_pow, Nat.cast_ofNat, Int.toNat_of_nonneg (Int.emod_nonneg _ (by positivity))]

theorem value_emod_two_pow {n : Nat} (k : Sign) (x : BitVec n) : k.value x % 2 ^ n = x.toNat := by
  rw [← natCast_toNat_ofInt, ofInt_value]

theorem toNat_and_one {n : Nat} (hn : 1 < n) (x : BitVec n) : (x &&& 1).toNat = x.toNat % 2 := by
  have hone : (1 : BitVec n).toNat = 1 := BitVec.toNat_one (by omega)
  rw [BitVec.toNat_and, hone, Nat.and_one_is_mod]

theorem value_emod_two {n : Nat} (hn : 0 < n) (k : Sign) (x : BitVec n) : k.value x % 2 = (x.toNat % 2 : Nat) := by
  rw [← Int.emod_emod_of_dvd (k.value x) (dvd_pow_self 2 hn.ne'), value_emod_two_pow, Int.natCast_emod, Nat.cast_ofNat]

/-- The carry of the two low bits, which needs two bits to be added in. -/
theorem ofInt_carry {n : Nat} (hn : 1 < n) (k : Sign) (x y : BitVec n) :
    BitVec.ofInt n ((k.value x % 2 + k.value y % 2) / 2) = ((x &&& 1) + (y &&& 1)) >>> 1 := by
  have hpow : 4 ≤ 2 ^ n := Nat.pow_le_pow_right (n := 2) (by decide) hn
  have hcast : (k.value x % 2 + k.value y % 2) / 2 = ((x.toNat % 2 + y.toNat % 2) / 2 : Nat) := by
    rw [value_emod_two (by omega), value_emod_two (by omega)]
    norm_cast
  have hadd : ((x &&& 1) + (y &&& 1)).toNat = x.toNat % 2 + y.toNat % 2 := by
    rw [BitVec.toNat_add, toNat_and_one hn, toNat_and_one hn]
    exact Nat.mod_eq_of_lt (by omega)
  apply BitVec.eq_of_toNat_eq
  rw [hcast, BitVec.ofInt_natCast, BitVec.toNat_ofNat, BitVec.toNat_ushiftRight, hadd, Nat.shiftRight_eq_div_pow, pow_one]
  exact Nat.mod_eq_of_lt (by omega)

/-- R148's expression, on integers. -/
theorem avg_floor_eq (x y : Int) : avg .floor x y = x / 2 + y / 2 + (x % 2 + y % 2) / 2 := by
  simp only [avg]
  omega

theorem ofInt_avg_floor {n : Nat} (hn : 1 < n) (k : Sign) (x y : BitVec n) :
    BitVec.ofInt n (avg .floor (k.value x) (k.value y)) =
      k.halve x + k.halve y + (((x &&& 1) + (y &&& 1)) >>> 1) := by
  rw [avg_floor_eq, BitVec.ofInt_add, BitVec.ofInt_add, ofInt_value_div_two, ofInt_value_div_two, ofInt_carry hn]

/-- Settles O4: the floored average is the sum of the halves and their carry, and narrowing a sum adds the narrowed terms. -/
theorem floorAverageIsTheSourceExpression : Obligations.FloorAverageIsTheSourceExpression := by
  intro s v1 v2 v3 m4 hfloor hm h2 h3
  have hw := isWidth_width hm
  refine ⟨writesFromTwo_of_fullLanes .signed rfl hm hw h2 h3 fun a b r hr i hi => ?_,
    writesFromTwo_of_fullLanes .unsigned rfl hm hw h2 h3 fun a b r hr i hi => ?_⟩
  · rw [hr i hi, hfloor]
    exact ofInt_avg_floor hw.one_lt_bits ..
  · rw [hr i hi, hfloor]
    exact ofInt_avg_floor hw.one_lt_bits ..

/-! ### Halves of products (R155 to R157) -/

theorem setWidth_eq_ofInt_value {n m : Nat} (x : BitVec n) : x.setWidth m = BitVec.ofInt m (Sign.unsigned.value x) := by
  rw [Sign.value, BitVec.ofInt_natCast, BitVec.ofNat_toNat]

theorem signExtend_eq_ofInt_value {n m : Nat} (x : BitVec n) : x.signExtend m = BitVec.ofInt m (Sign.signed.value x) := rfl

/-- Dropping multiples of `2^m` does not reach the `n` bits above the low `n`. -/
theorem emod_ediv_emod_two_pow {n m : Nat} (h : n + n ≤ m) (z : Int) : z % 2 ^ m / 2 ^ n % 2 ^ n = z / 2 ^ n % 2 ^ n := by
  obtain ⟨j, rfl⟩ := Nat.exists_eq_add_of_le h
  have hmod : z % 2 ^ (n + n + j) = z + 2 ^ n * (2 ^ n * -(2 ^ j * (z / 2 ^ (n + n + j)))) := by
    rw [Int.emod_def]
    ring
  rw [hmod, Int.add_mul_ediv_left _ _ (by positivity), Int.add_mul_emod_self_left]

theorem extractLsb'_ofInt {n m : Nat} (h : n + n ≤ m) (z : Int) :
    (BitVec.ofInt m z).extractLsb' n n = BitVec.ofInt n (z / 2 ^ n) := by
  apply BitVec.eq_of_toNat_eq
  rw [← Int.ofNat_inj, natCast_toNat_ofInt, ← emod_ediv_emod_two_pow h, ← natCast_toNat_ofInt m,
    BitVec.extractLsb'_toNat, Nat.shiftRight_eq_div_pow]
  norm_cast

/-- The high half of a product is that of the operands extended to twice their width, as their sign says (R156, R157). -/
theorem ofInt_mulHigh {w : Nat} (k : Sign) (x y : BitVec (8 * w)) :
    BitVec.ofInt (8 * w) (mulHigh w (k.value x) (k.value y)) =
      (BitVec.ofInt (8 * (2 * w)) (k.value x) * BitVec.ofInt (8 * (2 * w)) (k.value y)).extractLsb' (8 * w) (8 * w) := by
  rw [← BitVec.ofInt_mul, extractLsb'_ofInt (by omega), mulHigh]

/-- Settles O6: narrowing the exact product keeps its low half, and narrowing its quotient by 2^(8w) keeps its high half. -/
theorem multiplyLowAndHighHalves : Obligations.MultiplyLowAndHighHalves := by
  intro s v1 v2 v3 m4 hm h2 h3
  have hw := (isNarrow_width hm).isWidth
  refine ⟨writesFromTwo_of_fullLanes .unsigned rfl hm hw h2 h3 fun a b r hr i hi => ?low,
    writesFromTwo_of_fullLanes .signed rfl hm hw h2 h3 fun a b r hr i hi => ?high,
    writesFromTwo_of_fullLanes .unsigned rfl hm hw h2 h3 fun a b r hr i hi => ?logicalHigh⟩
  case low => exact (hr i hi).trans (ofInt_value_mul ..)
  case high =>
    rw [signExtend_eq_ofInt_value, signExtend_eq_ofInt_value]
    exact (hr i hi).trans (ofInt_mulHigh ..)
  case logicalHigh =>
    rw [setWidth_eq_ofInt_value, setWidth_eq_ofInt_value]
    exact (hr i hi).trans (ofInt_mulHigh ..)

/-! ### Exact products of even and odd lanes (R158 to R161) -/

theorem fits_mul {n : Nat} (hn : 0 < n) (k : Sign) (x y : BitVec n) : k.Fits (2 * n) (k.value x * k.value y) := by
  cases k with
  | signed =>
    have hpow : (2 : Int) ^ (n * 2 - 2) < 2 ^ (2 * n - 1) := pow_lt_pow_right₀ (by norm_num) (by omega)
    have hle := BitVec.toInt_mul_toInt_le (x := x) (y := y)
    have hge := BitVec.le_toInt_mul_toInt (x := x) (y := y)
    simp only [Sign.Fits, Sign.minValue, Sign.maxValue, Sign.value]
    omega
  | unsigned =>
    have hlt : x.toNat * y.toNat < 2 ^ (2 * n) := by
      rw [Nat.two_mul, pow_add]
      exact Nat.mul_lt_mul'' x.isLt y.isLt
    have hlt' : (x.toNat : Int) * y.toNat < 2 ^ (2 * n) := by exact_mod_cast hlt
    exact ⟨by simp only [Sign.minValue, Sign.value]; positivity, Int.le_sub_one_of_lt hlt'⟩

/-- A product fits in lanes twice as wide, so narrowing and reading it back gives it again. -/
theorem value_ofInt_mul {w : Nat} (hw : IsNarrow w) (k : Sign) (x y : BitVec (8 * w)) :
    k.value (BitVec.ofInt (8 * (2 * w)) (k.value x * k.value y)) = k.value x * k.value y := by
  have hpos := hw.pos
  refine value_ofInt (by omega) ?_
  rw [Nat.mul_left_comm]
  exact fits_mul (by omega) k x y

/-- A widening multiply, in terms of its lanes: lane `j`, read per `k`, is the product of the source lanes `sel j`. -/
theorem writesFromTwo_of_wideProducts {i : Instr} {s : State} {m : Mnemonic} {v1 v2 v3 : VReg} {m4 : MField} (k : Sign)
    {rg : ElementRange} {sel : Nat → Nat} {P : V128 → V128 → V128 → Prop}
    (hexec : exec i s = laneBinary s m v1 v2 v3 m4 2 (fun x y => x * y) k rg .widened)
    (hm : m4.toNat ≤ 2) (h2 : s.vrReadable v2 = true) (h3 : s.vrReadable v3 = true)
    (hlane : ∀ a b j, j < elemCount (width m4) / 2 →
      elem (laneApply (fun x y => x * y) a b (width m4) k rg .widened) (2 * width m4) j =
        BitVec.ofInt (8 * (2 * width m4)) (readElem k a (width m4) (sel j) * readElem k b (width m4) (sel j)))
    (hP : ∀ a b r, (∀ j, j < elemCount (width m4) / 2 → k.value (elem r (2 * width m4) j) =
      k.value (elem a (width m4) (sel j)) * k.value (elem b (width m4) (sel j))) → P a b r) :
    WritesFromTwo i s v1 v2 v3 P := by
  refine writesFromTwo_of_laneBinary hexec hm h2 h3 fun a b => hP _ _ _ fun j hj => ?_
  rw [hlane a b j hj, readElem_eq_value, readElem_eq_value, value_ofInt_mul (isNarrow_width hm)]

/-- Settles O7: the even and the odd lanes' products fit in their wider lanes. -/
theorem evenOddMultiplyIsExact : Obligations.EvenOddMultiplyIsExact := by
  intro s v1 v2 v3 m4 hm h2 h3
  have hw := isNarrow_width hm
  have heven := fun k a b j => elem_laneApply_even hw (fun x y => x * y) a b k j
  have hodd := fun k a b j => elem_laneApply_odd hw (fun x y => x * y) a b k j
  exact ⟨writesFromTwo_of_wideProducts .signed rfl hm h2 h3 (heven .signed) fun a b r hr => hr,
    writesFromTwo_of_wideProducts .unsigned rfl hm h2 h3 (heven .unsigned) fun a b r hr j hj =>
      Int.ofNat_inj.1 ((hr j hj).trans (Int.natCast_mul ..).symm),
    writesFromTwo_of_wideProducts .signed rfl hm h2 h3 (hodd .signed) fun a b r hr => hr,
    writesFromTwo_of_wideProducts .unsigned rfl hm h2 h3 (hodd .unsigned) fun a b r hr j hj =>
      Int.ofNat_inj.1 ((hr j hj).trans (Int.natCast_mul ..).symm)⟩

end Sys2Proof.Machine

/-! PROOFS. The unary lane operators (O8 to O10): negation and absolute value, the count of one bits, and the counts of leading
and trailing zeros (42_lane_unary.md). -/

namespace Sys2Proof.Machine

/-! ### Instructions that write one vector register from one (R200) -/

theorem writesFromOne_of_next {i : Instr} {s : State} {v1 v2 : VReg} {r : V128} {P : V128 → V128 → Prop}
    (hnext : exec i s = .next ((s.afterVR v2).writeVR v1 r)) (hP : P (s.vrValue v2) r) : WritesFromOne i s v1 v2 P := by
  have hupd : Updates (some v1) none false none s ((s.afterVR v2).writeVR v1 r) :=
    (Updates.refl.afterVR v2).writeVR r rfl
  exact ⟨_, hnext, by rwa [writeVR_vrAt_self], by simp [writeVR_vrHeld], hupd.changesOnly (by simp)⟩

theorem writesFromOne_of_vectorUnary {i : Instr} {s : State} {m : Mnemonic} {v1 v2 : VReg} {m3 : MField} {maxCode : Nat}
    {f : V128 → V128} {P : V128 → V128 → Prop} (hexec : exec i s = vectorUnary s m v1 v2 m3 maxCode f)
    (hm : m3.toNat ≤ maxCode) (h2 : s.vrReadable v2 = true) (hP : ∀ a, P a (f a)) : WritesFromOne i s v1 v2 P :=
  writesFromOne_of_next (hexec.trans (vectorUnary_next.2 ⟨h2, hm, rfl⟩)) (hP _)

/-- A unary lane-by-lane instruction, in terms of its lanes: each is `op` of the source lane read per `k`, narrowed (R18). -/
theorem writesFromOne_of_fullLanes {i : Instr} {s : State} {m : Mnemonic} {v1 v2 : VReg} {m3 : MField} {maxCode : Nat}
    {op : Int → Int} (k : Sign) {P : V128 → V128 → Prop}
    (hexec : exec i s = vectorUnary s m v1 v2 m3 maxCode fun a => laneApply1 op a (width m3) k .full .same)
    (hm : m3.toNat ≤ maxCode) (hw : IsWidth (width m3)) (h2 : s.vrReadable v2 = true)
    (hP : ∀ a r, (∀ i, i < elemCount (width m3) → elem r (width m3) i =
      BitVec.ofInt (8 * width m3) (op (k.value (elem a (width m3) i)))) → P a r) :
    WritesFromOne i s v1 v2 P := by
  refine writesFromOne_of_vectorUnary hexec hm h2 fun a => hP _ _ fun i hi => ?_
  rw [elem_laneApply1_full hw _ _ _ _ hi, readElem_eq_value]

/-! ### Negation and absolute value (R201, R202) -/

section
variable {n : Nat} (x : BitVec n)

theorem ofInt_neg_value (k : Sign) : BitVec.ofInt n (-k.value x) = -x := by
  rw [BitVec.ofInt_neg, ofInt_value]

theorem ofInt_abs_value : BitVec.ofInt n |Sign.signed.value x| = if x.msb then -x else x := by
  cases hmsb : x.msb with
  | true =>
    have hneg : Sign.signed.value x < 0 := BitVec.toInt_neg_of_msb_true hmsb
    rw [abs_of_neg hneg, ofInt_neg_value, if_pos rfl]
  | false =>
    have hnonneg : 0 ≤ Sign.signed.value x := BitVec.toInt_nonneg_of_msb_false hmsb
    rw [abs_of_nonneg hnonneg, ofInt_value, if_neg Bool.false_ne_true]

end

/-- Settles O8: narrowing negates modulo 2^(8w), and the absolute value is the negation exactly where the sign bit is one. -/
theorem complementAndPositivePerLane : Obligations.ComplementAndPositivePerLane := by
  intro s v1 v2 m3 hm h2
  have hw := isWidth_width (show m3.toNat ≤ 4 by omega)
  exact ⟨writesFromOne_of_fullLanes .signed rfl hm hw h2 fun a r hr i hi => (hr i hi).trans (ofInt_neg_value ..),
    writesFromOne_of_fullLanes .signed rfl hm hw h2 fun a r hr i hi => (hr i hi).trans (ofInt_abs_value ..)⟩

/-! ### Counts in a lane (R203 to R205) -/

/-- A count of bits of a lane fits in the lane. -/
theorem toNat_ofInt_natCast_of_le {n c : Nat} (h : c ≤ n) : (BitVec.ofInt n (c : Int)).toNat = c := by
  rw [BitVec.ofInt_natCast, BitVec.toNat_ofNat, Nat.mod_eq_of_lt (h.trans_lt Nat.lt_two_pow_self)]

/-- The one bits of `x`, as positions. -/
def oneBits {n : Nat} (x : BitVec n) : Finset (Fin n) := Finset.univ.filter fun k : Fin n => x.getLsbD k

theorem card_oneBits_le {n : Nat} (x : BitVec n) : (oneBits x).card ≤ n :=
  (Finset.card_filter_le ..).trans_eq (Finset.card_fin n)

theorem popcount_value {n : Nat} (x : BitVec n) : popcount n (Sign.unsigned.value x) = (oneBits x).card := by
  have hcard : (oneBits x).card = ((List.finRange n).filter fun k : Fin n => x.getLsbD k).length := by
    simp [oneBits, Finset.card, Finset.filter, Fin.univ_def]
  rw [popcount, hcard, ← List.map_coe_finRange_eq_range, List.filter_map, List.length_map]
  rfl

/-- Settles O9: the count of a byte's one bits is at most 8, so it fits in the byte. -/
theorem populationCountPerByte : Obligations.PopulationCountPerByte := by
  intro s v1 v2 h2
  refine writesFromOne_of_fullLanes .unsigned rfl (Nat.le_refl 0) (isWidth_width (Nat.zero_le 4)) h2 fun a r hr i hi => ?_
  have hlane : elem r 1 i = BitVec.ofInt 8 (popcount 8 (Sign.unsigned.value (elem a 1 i))) := hr i hi
  rw [hlane, popcount_value]
  exact toNat_ofInt_natCast_of_le (card_oneBits_le (elem a 1 i))

/-- `c` is the number of zeros before the first one in `bit 0, …, bit (n - 1)`, and `n` where all are zero. -/
def IsZeroRun (n : Nat) (bit : Nat → Bool) (c : Nat) : Prop :=
  c ≤ n ∧ (∀ k, k < c → bit k = false) ∧ (c < n → bit c = true)

theorem isZeroRun_toNat_ofInt {n : Nat} {bit : Nat → Bool} {z : Int} (h : ∃ c : Nat, z = c ∧ IsZeroRun n bit c) :
    IsZeroRun n bit (BitVec.ofInt n z).toNat := by
  obtain ⟨c, rfl, hle, hbits⟩ := h
  rw [toNat_ofInt_natCast_of_le hle]
  exact ⟨hle, hbits⟩

theorem countLeadingZeros_isZeroRun {n : Nat} (x : BitVec n) :
    ∃ c : Nat, countLeadingZeros n (Sign.unsigned.value x) = c ∧ IsZeroRun n x.getMsbD c := by
  by_cases hx : x.toNat = 0
  · have hzero : x = 0#n := BitVec.eq_of_toNat_eq (by simpa using hx)
    exact ⟨n, by simp [countLeadingZeros, Sign.value, hx], le_rfl, fun k _ => by simp [hzero],
      fun hn => absurd hn (lt_irrefl n)⟩
  · have hlog : x.toNat.log2 < n := (Nat.log2_lt hx).2 x.isLt
    refine ⟨n - 1 - x.toNat.log2, ?_, by omega, fun k hk => ?_, fun _ => ?_⟩
    · simp only [countLeadingZeros, Sign.value, Int.natCast_eq_zero, hx, if_false, Int.toNat_natCast]
      omega
    · have hlt : x.toNat < 2 ^ (n - 1 - k) := (Nat.log2_lt hx).1 (by omega)
      rw [BitVec.getMsbD_eq_getLsbD, ← BitVec.testBit_toNat, Nat.testBit_lt_two_pow hlt, Bool.and_false]
    · rw [BitVec.getMsbD_eq_getLsbD, show n - 1 - (n - 1 - x.toNat.log2) = x.toNat.log2 by omega,
        ← BitVec.testBit_toNat, Nat.testBit_log2 hx, Bool.and_true, decide_eq_true_eq]
      omega

theorem countTrailingZeros_isZeroRun {n : Nat} (x : BitVec n) :
    ∃ c : Nat, countTrailingZeros n (Sign.unsigned.value x) = c ∧ IsZeroRun n x.getLsbD c := by
  refine ⟨_, rfl, ?_⟩
  cases hfind : (List.range n).find? fun i => (Sign.unsigned.value x).toNat.testBit i with
  | none =>
    have hzeros : ∀ k, k < n → x.getLsbD k = false := fun k hk =>
      Bool.eq_false_of_not_eq_true' (List.find?_range_eq_none.1 hfind k hk)
    exact ⟨le_rfl, hzeros, fun hn => absurd hn (lt_irrefl n)⟩
  | some c =>
    obtain ⟨hone, hmem, hzeros⟩ := List.find?_range_eq_some.1 hfind
    exact ⟨(List.mem_range.1 hmem).le, fun k hk => Bool.eq_false_of_not_eq_true' (hzeros k hk), fun _ => hone⟩

/-- Settles O10: the logarithm is the highest one bit and the first position found is the lowest; either count is at most 8w, so
it fits in its lane. -/
theorem zeroCountsPerLane : Obligations.ZeroCountsPerLane := by
  intro s v1 v2 m3 hm h2
  have hw := isWidth_width (show m3.toNat ≤ 4 by omega)
  refine ⟨writesFromOne_of_fullLanes .unsigned rfl hm hw h2 fun a r hr i hi => ?leading,
    writesFromOne_of_fullLanes .unsigned rfl hm hw h2 fun a r hr i hi => ?trailing⟩
  case leading =>
    rw [hr i hi]
    exact isZeroRun_toNat_ofInt (countLeadingZeros_isZeroRun _)
  case trailing =>
    rw [hr i hi]
    exact isZeroRun_toNat_ofInt (countTrailingZeros_isZeroRun _)

end Sys2Proof.Machine

/-! PROOFS. The truncating pack and the unpacks (O11, O14): what narrowing and extending leave in each lane
(43_pack_unpack.md). -/

namespace Sys2Proof.Machine

/-! ### Changing a lane's width (R229, R230) -/

/-- `x` in a lane of `m` bits: extended with its sign or with zeros, or cut down to its low bits (R229, R230). -/
def Sign.resize {n : Nat} (k : Sign) (m : Nat) (x : BitVec n) : BitVec m :=
  match k with
  | .signed => x.signExtend m
  | .unsigned => x.setWidth m

theorem ofInt_value_eq_resize {n : Nat} (k : Sign) (m : Nat) (x : BitVec n) : BitVec.ofInt m (k.value x) = k.resize m x := by
  cases k with
  | signed => rfl
  | unsigned => exact (BitVec.ofInt_natCast ..).trans (BitVec.ofNat_toNat ..)

/-! ### VPK -/

/-- Each element of a truncating pack is the low half of its source element (R228, R230). -/
theorem elem_packElems_packSources {w : Nat} (hw : IsPackWidth w) (a b : V128) (j : Nat) (hj : j < 2 * elemCount w) :
    elem (packElems w none (packSources .unsigned a b w)) (w / 2) j = (packSource a b w j).setWidth (8 * (w / 2)) := by
  rw [elem_packElems_truncate hw _ (length_packSources ..) j (by simpa using hj), getElem_packSources]
  exact ofInt_value_eq_resize .unsigned _ _

/-- Settles O11: VPK completes with each source element, in the pack order, cut down to half its width. -/
theorem packTruncates : Obligations.PackTruncates := by
  intro s v1 v2 v3 m4 hmin hmax h2 h3
  have hlegal := packLegal_of_bounds hmin hmax
  exact writesFromTwo_of_next (execVpk_next.2 ⟨h2, h3, hlegal, rfl⟩) (elem_packElems_packSources (isPackWidth_width hlegal) _ _)

/-! ### VUPH, VUPL, VUPLH and VUPLL -/

/-- Element `j` of an unpacked half extends source element `from + j`, where `from` is that of R16's table (R229). -/
theorem elem_unpackedHalf {n : Nat} {rg : ElementRange} (hn : IsNarrow n) (hrg : rg = .high ∨ rg = .low) (k : Sign)
    (a : V128) (j : Nat) (hj : j < elemCount n / 2) :
    elem (unpackedHalf k a n rg) (2 * n) j =
      k.resize (8 * (2 * n)) (elem a n (rangeFrom rg (elemCount n) + j)) := by
  rw [← ofInt_value_eq_resize, ← readElem_eq_value]
  rcases hrg with rfl | rfl
  · rw [rangeFrom, Nat.zero_add]
    exact elem_laneApply1_high hn _ a k j hj
  · exact elem_laneApply1_low hn _ a k j hj

/-- An unpack, in terms of its lanes: each extends the source lane of its half per `k`. -/
theorem writesFromOne_of_unpack {i : Instr} {s : State} {m : Mnemonic} {v1 v2 : VReg} {m3 : MField} (k : Sign)
    {rg : ElementRange} {P : V128 → V128 → Prop} (hexec : exec i s = unpack s m v1 v2 m3 k rg)
    (hrg : rg = .high ∨ rg = .low) (hm : m3.toNat ≤ 2) (h2 : s.vrReadable v2 = true)
    (hP : ∀ a r, (∀ j, j < elemCount (width m3) / 2 → elem r (2 * width m3) j =
      k.resize (8 * (2 * width m3)) (elem a (width m3) (rangeFrom rg (elemCount (width m3)) + j))) → P a r) :
    WritesFromOne i s v1 v2 P :=
  writesFromOne_of_next (hexec.trans (unpack_next.2 ⟨h2, hm, rfl⟩))
    (hP _ _ (elem_unpackedHalf (isNarrow_width hm) hrg k _))

/-- Settles O14: the high variants extend from source element 0 on, the low ones from the middle element on. -/
theorem unpackExtendsHalf : Obligations.UnpackExtendsHalf := by
  intro s v1 v2 m3 hm h2
  have hhigh : ∀ j, rangeFrom .high (elemCount (width m3)) + j = j := Nat.zero_add
  exact ⟨writesFromOne_of_unpack .signed rfl (.inl rfl) hm h2 fun a r hr j hj => by rw [hr j hj, hhigh, Sign.resize],
    writesFromOne_of_unpack .signed rfl (.inr rfl) hm h2 fun a r hr => hr,
    writesFromOne_of_unpack .unsigned rfl (.inl rfl) hm h2 fun a r hr j hj => by rw [hr j hj, hhigh, Sign.resize],
    writesFromOne_of_unpack .unsigned rfl (.inr rfl) hm h2 fun a r hr => hr⟩

end Sys2Proof.Machine

/-! PROOFS. The byte permute, the bitwise selector, the merges and replicate (O16 to O19), and VPDI as a merge (O22)
(44_permute.md). -/

namespace Sys2Proof.Machine

/-! ### Instructions that write one vector register from three -/

theorem vectorTernary_completes {s : State} {v1 v2 v3 v4 : VReg} (f : V128 → V128 → V128 → V128)
    (h2 : s.vrReadable v2 = true) (h3 : s.vrReadable v3 = true) (h4 : s.vrReadable v4 = true) :
    ∃ t, vectorTernary s v1 v2 v3 v4 f = .next t ∧ t.vrHeld v1 = true ∧
      t.vrAt v1 = f (s.vrValue v2) ((s.afterVR v2).vrValue v3) (((s.afterVR v2).afterVR v3).vrValue v4) ∧
      ChangesOnly s t (some v1) none false none := by
  have hnext : vectorTernary s v1 v2 v3 v4 f = .next _ := vectorTernary_next.2 ⟨h2, h3, h4, rfl⟩
  exact ⟨_, hnext, by simp [writeVR_vrHeld], writeVR_vrAt_self .., (vectorTernary_updates hnext).changesOnly (by simp)⟩

/-! ### VPERM -/

/-- Byte `j` of the 256-bit `a ++ b` is a byte of `a` where `j` is below 16, and of `b` from there on (R260). -/
theorem extractLsb'_append_eq_elem (a b : V128) {j : Nat} (hj : j < 32) :
    (a ++ b).extractLsb' (8 * (31 - j)) 8 = if j < 16 then elem a 1 j else elem b 1 (j - 16) := by
  by_cases hlow : j < 16
  · have hstart : 8 * (31 - j) - 128 = 128 - 8 * 1 * (j + 1) := by omega
    rw [if_pos hlow, BitVec.extractLsb'_append_eq_of_le (show 128 ≤ 8 * (31 - j) by omega), hstart, elem]
  · have hstart : 8 * (31 - j) = 128 - 8 * 1 * (j - 16 + 1) := by omega
    rw [if_neg hlow, BitVec.extractLsb'_append_eq_of_add_le (show 8 * (31 - j) + 8 ≤ 128 by omega), hstart, elem]

theorem elem_permuteBytes (a b sel : V128) {i : Nat} (hi : i < 16) :
    elem (permuteBytes a b sel) 1 i = (a ++ b).extractLsb' (8 * (31 - (elem sel 1 i).toNat % 32)) 8 := by
  rw [extractLsb'_append_eq_elem a b (Nat.mod_lt _ (by decide)), permuteBytes,
    elem_ofElems_map _ _ i (by simpa using hi) (by simp), List.getElem_range]

/-- Settles O16: each byte of VPERM's result is one byte of the concatenated sources. -/
theorem permuteSelectsBytes : Obligations.PermuteSelectsBytes := by
  intro s v1 v2 v3 v4 h2 h3 h4
  obtain ⟨t, hnext, hheld, hval, hframe⟩ := vectorTernary_completes permuteBytes h2 h3 h4
  exact ⟨t, hnext, hheld, fun i hi => by rw [hval, elem_permuteBytes _ _ _ hi], hframe⟩

/-! ### VSEL -/

theorem getLsbD_selectBits (a b mask : V128) {n : Nat} (hn : n < 128) :
    (selectBits a b mask).getLsbD n = if mask.getLsbD n then a.getLsbD n else b.getLsbD n := by
  simp only [selectBits, BitVec.getLsbD_or, BitVec.getLsbD_and, BitVec.getLsbD_not, hn, decide_true, Bool.true_and]
  cases mask.getLsbD n <;> simp

/-- Settles O17: each bit of VSEL's result is a bit of V2 or of V3, as the mask V4 says. -/
theorem selectTakesMaskedBits : Obligations.SelectTakesMaskedBits := by
  intro s v1 v2 v3 v4 h2 h3 h4
  obtain ⟨t, hnext, hheld, hval, hframe⟩ := vectorTernary_completes selectBits h2 h3 h4
  exact ⟨t, hnext, hheld, fun n hn => by rw [hval, getLsbD_selectBits _ _ _ hn], hframe⟩

/-! ### VMRH and VMRL -/

theorem elem_mergeElems {w : Nat} (hw : IsWidth w) (start : Nat) (a b : V128) {j : Nat} (hj : j < elemCount w) :
    elem (mergeElems w start a b) w j = if j % 2 = 0 then elem a w (start + j / 2) else elem b w (start + j / 2) := by
  rw [mergeElems, elem_ofElems_map _ _ j (by simpa using hj) (by simp [hw.elemCount_mul]), List.getElem_range]

/-- Elements `2k` and `2k + 1` of a merge are elements `start + k` of the two sources (R262, R263). -/
theorem elem_mergeElems_pair {w : Nat} (hw : IsWidth w) (start : Nat) (a b : V128) {k : Nat} (hk : k < elemCount w / 2) :
    elem (mergeElems w start a b) w (2 * k) = elem a w (start + k) ∧
    elem (mergeElems w start a b) w (2 * k + 1) = elem b w (start + k) := by
  rw [elem_mergeElems hw start a b (show 2 * k < elemCount w by omega),
    elem_mergeElems hw start a b (show 2 * k + 1 < elemCount w by omega), if_pos (by omega), if_neg (by omega),
    show 2 * k / 2 = k by omega, show (2 * k + 1) / 2 = k by omega]
  exact ⟨rfl, rfl⟩

theorem writesFromTwo_of_vectorBinary {i : Instr} {s : State} {m : Mnemonic} {v1 v2 v3 : VReg} {m4 : MField} {legal : Bool}
    {f : V128 → V128 → V128} {P : V128 → V128 → V128 → Prop} (hexec : exec i s = vectorBinary s m v1 v2 v3 m4 legal f)
    (hlegal : legal = true) (h2 : s.vrReadable v2 = true) (h3 : s.vrReadable v3 = true) (hP : ∀ a b, P a b (f a b)) :
    WritesFromTwo i s v1 v2 v3 P :=
  writesFromTwo_of_next (hexec.trans (vectorBinary_next.2 ⟨h2, h3, hlegal, rfl⟩)) (hP ..)

/-- Settles O18: VMRH merges from element 0 on, VMRL from the middle element on. -/
theorem mergeInterleavesHalves : Obligations.MergeInterleavesHalves := by
  intro s v1 v2 v3 m4 hm h2 h3
  have hw := isWidth_width (show m4.toNat ≤ 4 by omega)
  refine ⟨writesFromTwo_of_vectorBinary rfl (decide_eq_true hm) h2 h3 fun a b k hk => ?high,
    writesFromTwo_of_vectorBinary rfl (decide_eq_true hm) h2 h3 fun a b k hk => ?low⟩
  case high => simpa only [Nat.zero_add] using elem_mergeElems_pair hw 0 a b hk
  case low => simpa only [Nat.add_comm k] using elem_mergeElems_pair hw (elemCount (width m4) / 2) a b hk

/-! ### VREP -/

theorem execVrep_next {s t : State} {v1 v3 : VReg} {i2 : BitVec 16} {m4 : MField} :
    execVrep v1 v3 i2 m4 s = .next t ↔
      s.vrReadable v3 = true ∧ m4.toNat ≤ 3 ∧ i2.toNat < elemCount (width m4) ∧
        t = (s.afterVR v3).writeVR v1 (replicateElem (width m4) (elem (s.vrValue v3) (width m4) i2.toNat)) := by
  rw [execVrep, readVR_next]
  by_cases hm : 3 < m4.toNat
  · simp [hm]
  · by_cases hi : elemCount (width m4) ≤ i2.toNat
    · simp [hm, hi]
    · simp [hm, hi, Nat.not_lt.1 hm, Nat.not_le.1 hi, eq_comm (b := t)]

/-- Settles O19: VREP replicates the element that I2 numbers. -/
theorem replicateCopiesElement : Obligations.ReplicateCopiesElement := by
  intro s v1 v3 i2 m4 hm hi2 h3
  exact writesFromOne_of_next (execVrep_next.2 ⟨h3, hm, hi2, rfl⟩) fun i hi =>
    elem_replicateElem (isWidth_width (by omega)) _ hi

/-! ### VPDI as a merge of doublewords -/

/-- A merge of doublewords has one pair: element `start` of each source. -/
theorem mergeElems_doubleword (start : Nat) (a b : V128) :
    mergeElems 8 start a b = elem a 8 start ++ elem b 8 start := by
  have hw : IsWidth 8 := by simp [IsWidth]
  obtain ⟨heven, hodd⟩ := elem_mergeElems_pair hw start a b (k := 0) (by decide)
  refine eq_of_elem_eq hw _ _ fun i hi => ?_
  have hi' : i < 2 := hi
  interval_cases i
  · exact heven.trans (elem_zero_append ..).symm
  · exact hodd.trans (elem_one_append ..).symm

/-- Appending doubleword `start` of V2 and of V3 is a merge of doublewords in every state: their size code is legal. -/
theorem vectorLogic_eq_doublewordMerge (s : State) (m : Mnemonic) (v1 v2 v3 : VReg) (m4 : MField) (start : Nat) :
    vectorLogic s v1 v2 v3 (fun a b => elem a 8 start ++ elem b 8 start) =
      vectorBinary s m v1 v2 v3 m4 true (mergeElems 8 start) := by
  have hmerge : (fun a b => elem a 8 start ++ elem b 8 start) = mergeElems 8 start :=
    funext₂ fun a b => (mergeElems_doubleword start a b).symm
  rw [hmerge]
  rfl

/-- Settles O22: VPDI selects doubleword 0 of both sources at M4 = 0 and doubleword 1 of both at M4 = 5, where the merges
start. -/
theorem doublewordPermuteIsMerge : Obligations.DoublewordPermuteIsMerge := by
  intro s v1 v2 v3
  exact ⟨vectorLogic_eq_doublewordMerge s .vmrh v1 v2 v3 3#4 0, vectorLogic_eq_doublewordMerge s .vmrl v1 v2 v3 3#4 1⟩

end Sys2Proof.Machine

/-! PROOFS. Load and store with length, and load count to block boundary (O25 to O28) (45_element_memory.md R295 to R299). -/

namespace Sys2Proof.Machine

/-! ### The bounded length (R295) -/

theorem boundedLength_eq (x : Word64) : boundedLength x = min (x.toNat % 2 ^ 32 + 1) 16 := by
  simp [boundedLength, low32]

theorem boundedLength_le (x : Word64) : boundedLength x ≤ 16 := Nat.min_le_right ..

/-! ### VLL (R296) -/

/-- What VLL puts the loaded bytes over: V1's value where fewer than 16 are loaded under PRESERVE, else zero. -/
def State.tailValue (s : State) (v1 : VReg) (len : Nat) : V128 :=
  if len < 16 ∧ s.params.vllTail = .preserve then s.vrValue v1 else 0#128

/-- The state after VLL has prepared its tail: V1 was read where it is kept. -/
def State.afterTail (s : State) (v1 : VReg) (len : Nat) : State :=
  if len < 16 ∧ s.params.vllTail = .preserve then s.afterVR v1 else s

@[simp] theorem afterTail_mem (s : State) (v1 : VReg) (len : Nat) : (s.afterTail v1 len).mem = s.mem := by
  unfold State.afterTail
  split <;> simp

theorem readTail_next_iff {s t : State} {v1 : VReg} {len : Nat} {k : V128 → State → Result} :
    readTail s v1 len k = .next t ↔
      (len < 16 → s.params.vllTail = .preserve → s.vrReadable v1 = true) ∧
        k (s.tailValue v1 len) (s.afterTail v1 len) = .next t := by
  rw [readTail_eq, State.tailValue, State.afterTail]
  by_cases hkept : len < 16 ∧ s.params.vllTail = .preserve
  · simp [hkept, readVR_next]
  · have hfree : len < 16 → s.params.vllTail = .preserve → s.vrReadable v1 = true :=
      fun hlt hpreserve => absurd ⟨hlt, hpreserve⟩ hkept
    simp only [if_neg hkept]
    exact (and_iff_right hfree).symm

section
variable {s t : State} {v1 : VReg} {r3 b2 : GReg} {d2 : BitVec 12} {ea : Addr} {len : Nat}

theorem execVll_next (hea : ea = vrsAddress ((s.afterGR r3).baseValue b2) d2) (hlen : len = boundedLength (s.grValue r3)) :
    execVll v1 r3 d2 b2 s = .next t ↔
      s.grReadable r3 = true ∧ s.baseReadable b2 = true ∧
        (len < 16 → s.params.vllTail = .preserve → s.vrReadable v1 = true) ∧ Admits s.mem .read ea len ∧
        t = (((s.afterGR r3).afterBase b2).afterTail v1 len).writeVR v1
          (fillElems 1 0 (((s.afterGR r3).afterBase b2).tailValue v1 len) (s.mem.bytesAt ea len)) := by
  subst hea hlen
  simp [execVll, readGR_next, readBase_next, readTail_next_iff, memRead_next, Mem.firstRefused_eq_none, Admits,
    eq_comm (b := t)]

/-- Byte `j` of loaded bytes put over `old` is the `j`-th loaded byte, and beyond them a byte of `old`. -/
theorem elem_fillElems_bytesAt {j : Nat} (old : V128) (m : Mem) (a : Addr) (hlen : len ≤ 16) (hj : j < 16) :
    elem (fillElems 1 0 old (m.bytesAt a len)) 1 j = if j < len then m.byteAt (byteAddr a j) else elem old 1 j := by
  split
  next hin =>
    have hbyte := elem_fillElems 1 (m.bytesAt a len) 0 old j (by simpa using hin) (by simp; omega)
    rwa [Nat.zero_add, Mem.getElem_bytesAt] at hbyte
  next hout => exact elem_fillElems_of_ge 1 (m.bytesAt a len) 0 old j (by simp; omega) (by omega)

/-- What a VLL that completes leaves in the bytes it loads. -/
theorem execVll_loads (hea : ea = vrsAddress ((s.afterGR r3).baseValue b2) d2) (hlen : len = boundedLength (s.grValue r3))
    (h : execVll v1 r3 d2 b2 s = .next t) {j : Nat} (hj : j < len) :
    elem (t.vrAt v1) 1 j = s.mem.byteAt (byteAddr ea j) := by
  have hle : len ≤ 16 := hlen ▸ boundedLength_le _
  obtain ⟨-, -, -, -, rfl⟩ := (execVll_next hea hlen).1 h
  rw [writeVR_vrAt_self, elem_fillElems_bytesAt _ _ _ hle (by omega), if_pos hj]

end

/-- Settles O25: VLL puts the loaded bytes over its tail value, which beyond them is V1's old value or zero. -/
theorem boundedLoadFillsPrefix : Obligations.BoundedLoadFillsPrefix := by
  intro s v1 r3 d2 b2 h3 hb len ea h1 hadm
  have hlen : len = boundedLength (s.grValue r3) := (boundedLength_eq _).symm
  have hle : len ≤ 16 := Nat.min_le_right ..
  have hnext : execVll v1 r3 d2 b2 s = .next _ := (execVll_next rfl hlen).2 ⟨h3, hb, h1, hadm, rfl⟩
  refine ⟨_, hnext, by simp [writeVR_vrHeld], fun j hj => execVll_loads rfl hlen hnext hj, fun j hlj hj => ?tail,
    (execVll_updates hnext).changesOnly (by simp)⟩
  case tail =>
    rw [writeVR_vrAt_self, elem_fillElems_bytesAt _ _ _ hle hj, if_neg (Nat.not_lt.2 hlj), State.tailValue,
      afterBase_params, afterGR_params]
    cases s.params.vllTail with
    | preserve => simp [Nat.lt_of_le_of_lt hlj hj]
    | zero => simp [elem]

/-! ### VSTL (R297) -/

theorem execVstl_next {s t : State} {v1 : VReg} {r3 b2 : GReg} {d2 : BitVec 12} {ea : Addr} {len : Nat}
    (hea : ea = vrsAddress ((s.afterGR r3).baseValue b2) d2) (hlen : len = boundedLength (s.grValue r3)) :
    execVstl v1 r3 d2 b2 s = .next t ↔
      s.grReadable r3 = true ∧ s.baseReadable b2 = true ∧ s.vrReadable v1 = true ∧ Admits s.mem .write ea len ∧
        t = (((s.afterGR r3).afterBase b2).afterVR v1).withMem
          (s.mem.writeBytes ea ((List.range len).map fun j => elem (((s.afterGR r3).afterBase b2).vrValue v1) 1 j)) := by
  subst hea hlen
  simp [execVstl, readGR_next, readBase_next, readVR_next, memWrite_next, Mem.firstRefused_eq_none, Admits]

/-- Settles O26: VSTL is one run of at most 16 byte writes, of the first bytes of V1. -/
theorem boundedStoreWritesPrefix : Obligations.BoundedStoreWritesPrefix := by
  intro s v1 r3 d2 b2 hwf h3 hb h1 len ea hadm
  have hlen : len = boundedLength (s.grValue r3) := (boundedLength_eq _).symm
  have hle : len ≤ 16 := Nat.min_le_right ..
  have hnext : execVstl v1 r3 d2 b2 s = .next _ := (execVstl_next rfl hlen).2 ⟨h3, hb, h1, hadm, rfl⟩
  have hframe := (execVstl_updates hnext).changesOnly fun _ => hwf
  rw [← hlen] at hframe
  refine ⟨_, hnext, fun j hj => ?_, hframe⟩
  rw [withMem_mem, vrsAddress, Mem.byteAt_writeBytes_inside hwf _ _ (by simp; omega) j (by simpa using hj), List.getElem_map,
    List.getElem_range]

/-! ### LCBB (R298) -/

theorem toNat_withLow32 (old : Word64) (x : BitVec 32) :
    (withLow32 old x).toNat = old.toNat / 2 ^ 32 * 2 ^ 32 + x.toNat := by
  have hhigh : old.toNat / 2 ^ 32 < 2 ^ 32 := by omega
  rw [withLow32, BitVec.toNat_append, ← Nat.shiftLeft_add_eq_or_of_lt x.isLt, Nat.shiftLeft_eq, BitVec.extractLsb'_toNat,
    Nat.shiftRight_eq_div_pow, Nat.mod_eq_of_lt hhigh]

theorem withLow32_low (old : Word64) (x : BitVec 32) : (withLow32 old x).toNat % 2 ^ 32 = x.toNat := by
  rw [toNat_withLow32]
  omega

theorem withLow32_high (old : Word64) (x : BitVec 32) : (withLow32 old x).toNat / 2 ^ 32 = old.toNat / 2 ^ 32 := by
  rw [toNat_withLow32]
  omega

theorem toNat_ofNat_blockCount (ea : Addr) (bs : Nat) : (BitVec.ofNat 32 (blockCount ea bs)).toNat = blockCount ea bs := by
  have hle : blockCount ea bs ≤ 16 := Nat.min_le_left ..
  exact Nat.mod_eq_of_lt (by omega)

theorem execLcbb_next {s t : State} {r1 x2 b2 : GReg} {d2 : BitVec 12} {m3 : MField} {ea : Addr}
    (hea : ea = rxeAddress (s.baseValue x2) ((s.afterBase x2).baseValue b2) d2) :
    execLcbb r1 d2 x2 b2 m3 s = .next t ↔
      s.baseReadable x2 = true ∧ s.baseReadable b2 = true ∧ s.grReadable r1 = true ∧ m3.toNat ≤ 6 ∧
        t = ((((s.afterBase x2).afterBase b2).afterGR r1).writeGR r1
          (withLow32 (((s.afterBase x2).afterBase b2).grValue r1) (BitVec.ofNat 32 (blockCount ea (blockSize m3))))).writeCC
            (blockCC (blockCount ea (blockSize m3))) := by
  subst hea
  by_cases hm : m3.toNat ≤ 6
  · simp [execLcbb, readBase_next, readGR_next, hm, Nat.not_lt.2 hm, eq_comm (b := t)]
  · simp [execLcbb, readBase_next, readGR_next, hm, Nat.not_le.1 hm]

/-- What an LCBB that completes leaves in the low half of R1. -/
theorem execLcbb_counts {s t : State} {r1 x2 b2 : GReg} {d2 : BitVec 12} {m3 : MField} {ea : Addr}
    (hea : ea = rxeAddress (s.baseValue x2) ((s.afterBase x2).baseValue b2) d2)
    (h : execLcbb r1 d2 x2 b2 m3 s = .next t) : (t.grAt r1).toNat % 2 ^ 32 = blockCount ea (blockSize m3) := by
  obtain ⟨-, -, -, -, rfl⟩ := (execLcbb_next hea).1 h
  rw [writeCC_grAt, writeGR_grAt_self, withLow32_low, toNat_ofNat_blockCount]

/-- Settles O27: LCBB leaves its count in the low half of R1 and the count's CC. -/
theorem loadCountToBlockBoundary : Obligations.LoadCountToBlockBoundary := by
  intro s r1 d2 x2 b2 m3 hm hx hb h1 ea n
  have hnext : execLcbb r1 d2 x2 b2 m3 s = .next _ := (execLcbb_next rfl).2 ⟨hx, hb, h1, hm, rfl⟩
  refine ⟨_, hnext, by simp [writeGR_grHeld], execLcbb_counts rfl hnext, ?high, rfl, rfl,
    (execLcbb_updates hnext).changesOnly (by simp)⟩
  case high => rw [writeCC_grAt, writeGR_grAt_self, withLow32_high]

/-! ### LCBB followed by VLL (R299) -/

theorem blockSize_dvd (m3 : MField) : blockSize m3 ∣ 2 ^ 64 := by
  have hpow : blockSize m3 = 2 ^ (6 + m3.toNat) := (pow_add 2 6 m3.toNat).symm
  rw [hpow]
  exact pow_dvd_pow 2 (by omega)

/-- The addresses up to the block boundary neither leave the block nor wrap, because blocks divide the address space. -/
theorem byteAddr_mem_block {ea : Addr} {bs j : Nat} (hbs : bs ∣ 2 ^ 64) (hj : j < blockCount ea bs) :
    (byteAddr ea j).toNat / bs = ea.toNat / bs := by
  have hlt : j < bs - ea.toNat % bs := hj.trans_le (Nat.min_le_right ..)
  have hsplit : bs * (ea.toNat / bs) + ea.toNat % bs = ea.toNat := Nat.div_add_mod ..
  have hnext : bs * (ea.toNat / bs + 1) ≤ 2 ^ 64 := by
    obtain ⟨blocks, hblocks⟩ := hbs
    rw [hblocks]
    exact Nat.mul_le_mul_left bs (Nat.div_lt_of_lt_mul (hblocks ▸ ea.isLt))
  rw [Nat.mul_succ] at hnext
  have haddr : (byteAddr ea j).toNat = bs * (ea.toNat / bs) + (ea.toNat % bs + j) := by
    rw [byteAddr, BitVec.toNat_add, BitVec.toNat_ofNat, Nat.add_mod_mod, Nat.mod_eq_of_lt (by omega)]
    omega
  have hrem : ea.toNat % bs + j < bs := by omega
  rw [haddr, Nat.mul_add_div (by omega), Nat.div_eq_of_lt hrem, Nat.add_zero]

/-- Settles O28: the bytes that VLL loads lie before the block boundary (`byteAddr_mem_block`), and VLL transfers to every
memory that agrees on them (`execVll_transfers`). -/
theorem blockBoundLoadStaysInBlock : Obligations.BlockBoundLoadStaysInBlock := by
  intro s t u w m r1 d2 x2 b2 m3 v1 r3 d b ea n hlcbb hea hn hcount haddr hvll hagrees
  have hblock : n = blockCount ea (blockSize m3) := hn.trans (execLcbb_counts hea hlcbb)
  have hlen : n = boundedLength (u.grValue r3) := by
    have hle : n ≤ 16 := hblock ▸ Nat.min_le_left ..
    rw [boundedLength_eq, hcount, Nat.min_eq_left hle]
  have hin : ∀ j, j < n → (byteAddr ea j).toNat / blockSize m3 = ea.toNat / blockSize m3 :=
    fun j hj => byteAddr_mem_block (blockSize_dvd m3) (hblock ▸ hj)
  have hagreesAt : m.AgreesAt u.mem .read ea n := fun j hj => hagrees _ (hin j hj)
  refine ⟨fun j hj => ⟨execVll_loads haddr.symm hlen hvll hj, hin j hj⟩, execVll_transfers ?_ hvll⟩
  rw [vrsAddress, haddr, ← hlen]
  exact hagreesAt

end Sys2Proof.Machine

/-! PROOFS. The compare-high masks (O30), the condition test (O31) and the load/store-on-condition family (O32 to O35)
(46_predicate.md). -/

namespace Sys2Proof.Machine

/-! ### VCH and VCHL (R320, R321) -/

theorem IsWidth.elemCount_pos {w : Nat} (hw : IsWidth w) : 0 < elemCount w := by
  rcases hw with rfl | rfl | rfl | rfl | rfl <;> decide

theorem ofInt_two_pow_sub_one (n : Nat) : BitVec.ofInt n (2 ^ n - 1) = BitVec.allOnes n := by
  have hcast : (2 ^ n - 1 : Int) = (2 ^ n - 1 : Nat) := by
    rw [Nat.cast_sub Nat.one_le_two_pow, Nat.cast_pow, Nat.cast_ofNat, Nat.cast_one]
  rw [hcast, BitVec.ofInt_natCast, BitVec.allOnes, BitVec.ofNatLT_eq_ofNat]

theorem ofInt_highMask {w : Nat} (k : Sign) (x y : BitVec (8 * w)) :
    BitVec.ofInt (8 * w) (highMask w (k.value x) (k.value y)) = if k.lt y x then BitVec.allOnes (8 * w) else 0 := by
  simp only [lt_iff_value_lt, highMask, gt_iff_lt]
  split
  · exact ofInt_two_pow_sub_one _
  · exact BitVec.ofInt_natCast _ 0

section
variable {k : Sign} {a b : V128} {w : Nat}

theorem highCount_eq_zero_iff :
    highCount k a b w = 0 ↔ ∀ i, i < elemCount w → k.lt (elem b w i) (elem a w i) = false := by
  simp [highCount, readElem_eq_value, ← lt_iff_value_lt]

theorem highCount_eq_elemCount_iff :
    highCount k a b w = elemCount w ↔ ∀ i, i < elemCount w → k.lt (elem b w i) (elem a w i) = true := by
  have hall := List.length_filter_eq_length_iff (l := List.range (elemCount w))
    (p := fun i => decide (readElem k a w i > readElem k b w i))
  simpa [highCount, readElem_eq_value, ← lt_iff_value_lt] using hall

/-- The CC of compare-high counts the elements that do not compare high (R320). -/
theorem ccCounts_compareCC (hpos : 0 < elemCount w) :
    CCCounts (compareCC (highCount k a b w) (elemCount w)) (elemCount w)
      fun i => k.lt (elem b w i) (elem a w i) = false := by
  refine ⟨fun hhigh => ?_, fun hlow => ?_, fun ⟨p, hp, hlow_p⟩ ⟨q, hq, hhigh_q⟩ => ?_⟩
  · have hcount : highCount k a b w = elemCount w :=
      highCount_eq_elemCount_iff.2 fun i hi => Bool.eq_true_of_not_eq_false (hhigh i hi)
    simp [compareCC, hcount]
  · have hcount : highCount k a b w = 0 := highCount_eq_zero_iff.2 hlow
    simp [compareCC, hcount, hpos.ne]
  · have hnot_all : highCount k a b w ≠ elemCount w := fun hcount =>
      Bool.false_ne_true (hlow_p.symm.trans (highCount_eq_elemCount_iff.1 hcount p hp))
    have hnot_none : highCount k a b w ≠ 0 := fun hcount => hhigh_q (highCount_eq_zero_iff.1 hcount q hq)
    simp [compareCC, hnot_all, hnot_none]

end

/-- What a compare-high does, in the order of bit vectors that its lanes are read in. -/
theorem writesFromTwo_of_compareHigh {i : Instr} {s : State} {m : Mnemonic} {v1 v2 v3 : VReg} {m4 m5 : MField} {k : Sign}
    (hexec : exec i s = compareHigh s m v1 v2 v3 m4 m5 k) (hm : m4.toNat ≤ 3)
    (h2 : s.vrReadable v2 = true) (h3 : s.vrReadable v3 = true) :
    WritesFromTwo i s v1 v2 v3
      (fun a b r => ∀ j, j < elemCount (width m4) → elem r (width m4) j =
        if k.lt (elem b (width m4) j) (elem a (width m4) j) then BitVec.allOnes (8 * width m4) else 0)
      (csBit m5)
      (fun a b cc => CCCounts cc (elemCount (width m4)) fun j =>
        k.lt (elem b (width m4) j) (elem a (width m4) j) = false) := by
  have hw : IsWidth (width m4) := isWidth_width (by omega)
  have hnext := hexec.trans ((compareHigh_next rfl rfl).2 ⟨h2, h3, hm, rfl⟩)
  have hframe := compareHigh_updates (hexec.symm.trans hnext)
  refine ⟨_, hnext, fun j hj => ?mask, writeVRAndCC_vrHeld_self .., fun hcs => ?cc, hframe.changesOnly (by simp)⟩
  case mask =>
    rw [writeVRAndCC_vrAt_self, elem_laneApply_full hw _ _ _ _ _ hj, readElem_eq_value, readElem_eq_value, ofInt_highMask]
  case cc =>
    rw [hcs]
    exact ⟨ccCounts_compareCC hw.elemCount_pos, writeVRAndCC_ccSupplied ..⟩

/-- Settles O30: VCH and VCHL are the compare-high of the signed and of the unsigned order. -/
theorem compareHighMask : Obligations.CompareHighMask := by
  intro s v1 v2 v3 m4 m5 hm h2 h3
  exact ⟨writesFromTwo_of_compareHigh (k := .signed) rfl hm h2 h3,
    writesFromTwo_of_compareHigh (k := .unsigned) rfl hm h2 h3⟩

/-! ### The condition test (R322) -/

theorem condHolds_eq_getLsbD (m3 : MField) (cc : CondCode) : condHolds m3 cc = m3.getLsbD (3 - cc.toNat) := by
  revert m3 cc
  decide

/-- Settles O31: the 64 pairs of a mask and a CC are evaluated. -/
theorem conditionTestSelectsMaskBit : Obligations.ConditionTestSelectsMaskBit :=
  condHolds_eq_getLsbD

/-! ### General registers and their halves -/

@[simp] theorem writeGR_grHeld_self (s : State) (r : GReg) (v : Word64) : (s.writeGR r v).grHeld r = true := by
  simp [writeGR_grHeld]

theorem toNat_low32 (x : Word64) : (low32 x).toNat = x.toNat % 2 ^ 32 := by
  simp [low32]

theorem low32_withLow32 (old : Word64) (x : BitVec 32) : low32 (withLow32 old x) = x :=
  BitVec.extractLsb'_append_eq_right

/-- The bytes of bits 31:0 are bytes of the register. -/
theorem extractLsb'_low32 (x : Word64) {lo : Nat} (hlo : lo + 8 ≤ 32) :
    (low32 x).extractLsb' lo 8 = x.extractLsb' lo 8 := by
  apply BitVec.eq_of_getLsbD_eq
  intro n hn
  simp [low32, hn, show lo + n < 32 by omega]

theorem extractLsb'_withLow32 (old : Word64) (x : BitVec 32) {lo : Nat} (hlo : lo + 8 ≤ 32) :
    (withLow32 old x).extractLsb' lo 8 = x.extractLsb' lo 8 := by
  rw [← extractLsb'_low32 _ hlo, low32_withLow32]

/-! ### LOCR and LOCGR (R323, R324) -/

section
variable {s t : State} {r1 r2 : GReg} {m3 : MField}

theorem execLocr_next :
    execLocr r1 r2 m3 s = .next t ↔ s.ccReadable = true ∧
      if condHolds m3 s.ccValue then
        s.grReadable r1 = true ∧ s.grReadable r2 = true ∧
          t = ((s.afterCC.afterGR r1).afterGR r2).writeGR r1
            (withLow32 (s.afterCC.grValue r1) (low32 ((s.afterCC.afterGR r1).grValue r2)))
      else t = s.afterCC := by
  rw [execLocr, readCC_next]
  split <;> simp [readGR_next, eq_comm (b := t)]

theorem execLocgr_next :
    execLocgr r1 r2 m3 s = .next t ↔ s.ccReadable = true ∧
      if condHolds m3 s.ccValue then
        s.grReadable r2 = true ∧ t = (s.afterCC.afterGR r2).writeGR r1 (s.afterCC.grValue r2)
      else t = s.afterCC := by
  rw [execLocgr, readCC_next]
  split <;> simp [readGR_next, eq_comm (b := t)]

end

/-- Settles O32: when the condition holds both write R1 from what they read; when it does not, only the CC was read. -/
theorem loadRegisterOnCondition : Obligations.LoadRegisterOnCondition := by
  intro s r1 r2 m3 hcc
  rw [← condHolds_eq_getLsbD]
  refine ⟨fun hc h2 => ⟨fun h1 => ?locr, ?locgr⟩, fun hc => ?falseCondition⟩
  case locr =>
    have hnext : execLocr r1 r2 m3 s = .next _ := execLocr_next.2 ⟨hcc, by rw [if_pos hc]; exact ⟨h1, h2, rfl⟩⟩
    refine ⟨_, hnext, writeGR_grHeld_self .., ?low, ?high, (execLocr_updates hnext).changesOnly (by simp)⟩
    case low => rw [writeGR_grAt_self, withLow32_low, toNat_low32]
    case high => rw [writeGR_grAt_self, withLow32_high]
  case locgr =>
    have hnext : execLocgr r1 r2 m3 s = .next _ := execLocgr_next.2 ⟨hcc, by rw [if_pos hc]; exact ⟨h2, rfl⟩⟩
    exact ⟨_, hnext, writeGR_grHeld_self .., writeGR_grAt_self .., (execLocgr_updates hnext).changesOnly (by simp)⟩
  case falseCondition =>
    have hframe : ChangesOnly s s.afterCC none none false none := Updates.refl.afterCC.changesOnly (by simp)
    exact ⟨⟨_, execLocr_next.2 ⟨hcc, by simp [hc]⟩, hframe⟩, ⟨_, execLocgr_next.2 ⟨hcc, by simp [hc]⟩, hframe⟩⟩

/-! ### LOC and LOCG with a true condition (R325 to R327) -/

theorem extractLsb'_beWord_bytesAt (m : Mem) (a : Addr) {n j : Nat} (hj : j < n) :
    (beWord n (m.bytesAt a n)).extractLsb' (8 * (n - 1 - j)) 8 = m.byteAt (byteAddr a j) := by
  rw [extractLsb'_beWord _ _ (by simp) _ hj, Mem.getElem_bytesAt]

theorem execLoc_loads {s : State} {r1 b2 : GReg} {d2 : BitVec 20} {m3 : MField} (hb : s.baseReadable b2 = true)
    (hcc : s.ccReadable = true) (hc : condHolds m3 (s.afterBase b2).ccValue = true) (h1 : s.grReadable r1 = true)
    (ha : Admits s.mem .read (rsyAddress (s.baseValue b2) d2) 4) :
    execLoc r1 d2 b2 m3 s = .next (((s.afterBase b2).afterCC.afterGR r1).writeGR r1
      (withLow32 ((s.afterBase b2).afterCC.grValue r1)
        (beWord 4 (s.mem.bytesAt (rsyAddress (s.baseValue b2) d2) 4)))) := by
  have hadm : s.mem.firstRefused .read (rsyAddress (s.baseValue b2) d2) 4 = none := Mem.firstRefused_eq_none.2 ha
  simp [execLoc, readBase_next, readCC_next, readGR_next, memRead_next, hb, hcc, hc, h1, hadm]

/-- Settles O33: the loaded value has the operand's bytes, and LOC puts it under the kept half of R1. -/
theorem loadOnConditionTrue : Obligations.LoadOnConditionTrue := by
  intro s r1 d2 b2 m3 hb hcc hc ea
  rw [← condHolds_eq_getLsbD] at hc
  refine ⟨fun ha => ?locg, fun h1 ha => ?loc⟩
  case locg =>
    have hnext := execLocg_loads (r1 := r1) hb hcc hc ha
    refine ⟨_, hnext, writeGR_grHeld_self .., fun j hj => ?_, (execLocg_updates hnext).changesOnly (by simp)⟩
    rw [writeGR_grAt_self]
    exact extractLsb'_beWord_bytesAt _ _ hj
  case loc =>
    have hnext := execLoc_loads hb hcc hc h1 ha
    refine ⟨_, hnext, writeGR_grHeld_self .., fun j hj => ?low, ?high, (execLoc_updates hnext).changesOnly (by simp)⟩
    case low =>
      rw [writeGR_grAt_self, extractLsb'_withLow32 _ _ (by omega)]
      exact extractLsb'_beWord_bytesAt _ _ hj
    case high => rw [writeGR_grAt_self, withLow32_high]

/-! ### STOC and STOCG with a true condition (R325, R328, R329) -/

/-- A big-endian store that `Mem` admits, after reads that have changed nothing but the count of draws. -/
theorem memWrite_beBytes_completes {s u : State} {m : Mnemonic} {a : Addr} {n : Nat} (x : BitVec (8 * n))
    (hread : Updates none none false (some (a, n)) s u) (hwf : s.wf = true) (hn : n ≤ 2 ^ 64)
    (ha : Admits s.mem .write a n) :
    ∃ t, memWrite u m a (beBytes n x) = .next t ∧
      (∀ j, j < n → t.mem.byteAt (byteAddr a j) = x.extractLsb' (8 * (n - 1 - j)) 8) ∧
      ChangesOnly s t none none false (some (a, n)) := by
  have hadm : u.mem.firstRefused .write a (beBytes n x).length = none := by
    rw [length_beBytes, Mem.firstRefused_eq_none]
    intro j hj
    rw [Mem.refusal, hread.refusals]
    exact ha j hj
  have hstore : Updates none none false (some (a, n)) s (u.withMem (u.mem.writeBytes a (beBytes n x))) :=
    hread.store a _ (by rw [length_beBytes])
  refine ⟨_, memWrite_next.2 ⟨hadm, rfl⟩, fun j hj => ?_, hstore.changesOnly fun _ => hwf⟩
  rw [withMem_mem, Mem.byteAt_writeBytes_inside (hread.wf hwf) _ _ (by simpa using hn) j (by simpa using hj),
    getElem_beBytes]

section
variable {s : State} {r1 b2 : GReg} {d2 : BitVec 20} {m3 : MField} (hb : s.baseReadable b2 = true)
  (hcc : s.ccReadable = true) (hc : condHolds m3 (s.afterBase b2).ccValue = true) (h1 : s.grReadable r1 = true)
include hb hcc hc h1

theorem execStocg_eq_memWrite :
    execStocg r1 d2 b2 m3 s = memWrite ((s.afterBase b2).afterCC.afterGR r1) .stocg (rsyAddress (s.baseValue b2) d2)
      (beBytes 8 ((s.afterBase b2).afterCC.grValue r1)) := by
  simp [execStocg, readBase_of_readable, readCC_of_readable, readGR_of_readable, hb, hcc, hc, h1]

theorem execStoc_eq_memWrite :
    execStoc r1 d2 b2 m3 s = memWrite ((s.afterBase b2).afterCC.afterGR r1) .stoc (rsyAddress (s.baseValue b2) d2)
      (beBytes 4 (low32 ((s.afterBase b2).afterCC.grValue r1))) := by
  simp [execStoc, readBase_of_readable, readCC_of_readable, readGR_of_readable, hb, hcc, hc, h1]

end

/-- Settles O34: STOCG is the big-endian store of R1 and STOC that of its low half (`memWrite_beBytes_completes`). -/
theorem storeOnConditionTrue : Obligations.StoreOnConditionTrue := by
  intro s r1 d2 b2 m3 hwf hb hcc h1 hc ea
  rw [← condHolds_eq_getLsbD] at hc
  have hread (n : Nat) : Updates none none false (some (ea, n)) s ((s.afterBase b2).afterCC.afterGR r1) :=
    (Updates.refl.afterBase b2).afterCC.afterGR r1
  refine ⟨fun ha => ?stocg, fun ha => ?stoc⟩
  case stocg =>
    obtain ⟨t, hnext, hbytes, hframe⟩ := memWrite_beBytes_completes (m := .stocg) (n := 8)
      ((s.afterBase b2).afterCC.grValue r1) (hread 8) hwf (by decide) ha
    exact ⟨t, (execStocg_eq_memWrite hb hcc hc h1).trans hnext, hbytes, hframe⟩
  case stoc =>
    obtain ⟨t, hnext, hbytes, hframe⟩ := memWrite_beBytes_completes (m := .stoc) (n := 4)
      (low32 ((s.afterBase b2).afterCC.grValue r1)) (hread 4) hwf (by decide) ha
    exact ⟨t, (execStoc_eq_memWrite hb hcc hc h1).trans hnext,
      fun j hj => (hbytes j hj).trans (extractLsb'_low32 _ (by omega)), hframe⟩

/-! ### A false condition (R325) -/

section
variable {s : State} {m : Mnemonic} {dir : Direction} {a : Addr} {n : Nat}

theorem falseAccess_completes (h : s.params.locFalseAccess = .never ∨ Admits s.mem dir a n) :
    falseAccess s m dir a n = .next s := by
  cases hmay : s.params.locFalseAccess with
  | never => simp [falseAccess, hmay]
  | may =>
    have hadm : s.mem.firstRefused dir a n = none := Mem.firstRefused_eq_none.2 (h.resolve_left (by simp [hmay]))
    simp [falseAccess, hmay, hadm]

/-- Under MAY a refused byte is reported or not, as the free value drawn says. -/
theorem falseAccess_of_firstRefused {p : Nat} {code : Option Nat} (hmay : s.params.locFalseAccess = .may)
    (hp : FirstRefused s.mem dir a n p code) :
    falseAccess s m dir a n = .next s.drawn ∨
      falseAccess s m dir a n = .fault (.access (byteAddr a p) dir code (opcodeRow m).len s.drawn) := by
  have hfirst : s.mem.firstRefused dir a n = some (p, code) := Mem.firstRefused_eq_some.2 hp
  cases hfaults : Config.locFalseFaults s.draws with
  | true => exact .inr (falseAccess_fault.2 ⟨hmay, hfaults, p, code, hfirst, rfl⟩)
  | false => exact .inl (by simp [falseAccess, hmay, hfirst, hfaults])

end

/-- All four read the base and the CC and end in the false access of their operand, under a mnemonic of 6 bytes. -/
theorem exec_eq_falseAccess {s : State} {r1 b2 : GReg} {d2 : BitVec 20} {m3 : MField} {i : Instr} {dir : Direction}
    {n : Nat} (hi : (i, dir, n) ∈ [(Instr.loc r1 d2 b2 m3, Direction.read, 4), (Instr.locg r1 d2 b2 m3, Direction.read, 8),
      (Instr.stoc r1 d2 b2 m3, Direction.write, 4), (Instr.stocg r1 d2 b2 m3, Direction.write, 8)])
    (hb : s.baseReadable b2 = true) (hcc : s.ccReadable = true)
    (hc : condHolds m3 (s.afterBase b2).ccValue = false) :
    ∃ m, (opcodeRow m).len = 6 ∧
      exec i s = falseAccess (s.afterBase b2).afterCC m dir (rsyAddress (s.baseValue b2) d2) n := by
  simp only [List.mem_cons, List.not_mem_nil, or_false, Prod.mk.injEq] at hi
  rcases hi with ⟨rfl, rfl, rfl⟩ | ⟨rfl, rfl, rfl⟩ | ⟨rfl, rfl, rfl⟩ | ⟨rfl, rfl, rfl⟩
  · exact ⟨.loc, rfl, by simp [exec, execLoc, readBase_of_readable, readCC_of_readable, hb, hcc, hc]⟩
  · exact ⟨.locg, rfl, by simp [exec, execLocg, readBase_of_readable, readCC_of_readable, hb, hcc, hc]⟩
  · exact ⟨.stoc, rfl, by simp [exec, execStoc, readBase_of_readable, readCC_of_readable, hb, hcc, hc]⟩
  · exact ⟨.stocg, rfl, by simp [exec, execStocg, readBase_of_readable, readCC_of_readable, hb, hcc, hc]⟩

/-- Settles O35: a false condition leaves the state after the reads of the base and the CC, where one more free value may
have been drawn for the fault. -/
theorem falseConditionChangesNothing : Obligations.FalseConditionChangesNothing := by
  intro s r1 d2 b2 m3 i dir n hi hb hcc hc ea
  rw [← condHolds_eq_getLsbD] at hc
  obtain ⟨m, hlen, hexec⟩ := exec_eq_falseAccess hi hb hcc hc
  have hread : Updates none none false none s (s.afterBase b2).afterCC := (Updates.refl.afterBase b2).afterCC
  have hparams : (s.afterBase b2).afterCC.params = s.params := hread.params
  have hmem : (s.afterBase b2).afterCC.mem = s.mem := by simp
  rw [hexec, ← hparams, ← hmem, ← hlen]
  exact ⟨fun hfree => ⟨_, falseAccess_completes hfree, hread.changesOnly (by simp)⟩,
    fun hmay p code hp => ⟨_, hread.drawn.changesOnly (by simp), falseAccess_of_firstRefused hmay hp⟩⟩

end Sys2Proof.Machine

/-! PROOFS. Faults (O40 to O43): which fault an instruction raises, for which byte, and what it leaves (60_exceptions.md R351 to
R357). -/

namespace Sys2Proof.Machine

/-! ### The bytes that an instruction accesses (20_memory.md R68) -/

/-- The access an instruction makes: that of the bytes it loads, else that of the bytes it stores to. Unlike its storage
operand, it is none where the condition is false. -/
def accessed (i : Instr) (s : State) : Option (Direction × Addr × Nat) :=
  match loadedFrom i s with
  | some (a, n) => some (.read, a, n)
  | none => (storedTo i s).map fun x => (.write, x)

theorem accessed_of_loadedFrom {i : Instr} {s : State} {a : Addr} {n : Nat} (h : loadedFrom i s = some (a, n)) :
    accessed i s = some (.read, a, n) := by
  simp [accessed, h]

theorem loadedFrom_of_storedTo {i : Instr} {s : State} {x : Addr × Nat} (h : storedTo i s = some x) :
    loadedFrom i s = none := by
  cases i with
  | vscef | vsceg | vstl | stoc | stocg => rfl
  | _ => cases h

theorem accessed_of_storedTo {i : Instr} {s : State} {a : Addr} {n : Nat} (h : storedTo i s = some (a, n)) :
    accessed i s = some (.write, a, n) := by
  simp [accessed, loadedFrom_of_storedTo h, h]

theorem accessed_eq_none {i : Instr} {s : State} :
    accessed i s = none ↔ loadedFrom i s = none ∧ storedTo i s = none := by
  cases h : loadedFrom i s <;> simp [accessed, h]

theorem storedTo_of_accessed {i : Instr} {s : State} {a : Addr} {n : Nat} (h : accessed i s = some (.write, a, n)) :
    storedTo i s = some (a, n) := by
  cases hload : loadedFrom i s with
  | none => simpa [accessed, hload] using h
  | some x => simp [accessed, hload] at h

/-- What is accessed is the storage operand: the load/store-on-condition family names its operand whatever the condition. -/
theorem storageOperand_of_accessed {i : Instr} {s : State} {x : Direction × Addr × Nat} (h : accessed i s = some x) :
    storageOperand i s = some x := by
  cases i with
  | loc r1 d2 b2 m3 | locg r1 d2 b2 m3 | stoc r1 d2 b2 m3 | stocg r1 d2 b2 m3 =>
    cases hc : condHolds m3 (s.afterBase b2).ccValue
    · simp [accessed, loadedFrom, storedTo, hc] at h
    · simpa [accessed, loadedFrom, storedTo, storageOperand, hc] using h
  | _ => exact h

theorem accessesMemory_of_storageOperand {i : Instr} {s : State} {x : Direction × Addr × Nat}
    (h : storageOperand i s = some x) : accessesMemory i = true := by
  cases i with
  | vgef | vgeg | vscef | vsceg | vll | vstl | loc | locg | stoc | stocg => rfl
  | _ => cases h

theorem storedTo_length_le {i : Instr} {s : State} {a : Addr} {n : Nat} (h : storedTo i s = some (a, n)) : n ≤ 16 := by
  cases i with
  | vscef | vsceg => cases h; decide
  | vstl => cases h; exact boundedLength_le _
  | stoc | stocg =>
    rw [storedTo] at h
    split at h <;> cases h
    decide
  | _ => cases h

theorem firstRefused_unique {m : Mem} {dir : Direction} {a : Addr} {n p q : Nat} {code code' : Option Nat}
    (h : FirstRefused m dir a n p code) (h' : FirstRefused m dir a n q code') : p = q ∧ code = code' := by
  have hsome : m.firstRefused dir a n = some (p, code) := Mem.firstRefused_eq_some.2 h
  simpa [Mem.firstRefused_eq_some.2 h'] using hsome.symm

theorem FirstRefused.not_admits {m : Mem} {dir : Direction} {a : Addr} {n p : Nat} {code : Option Nat}
    (h : FirstRefused m dir a n p code) : ¬ Admits m dir a n := by
  obtain ⟨hp, hrefused, -⟩ := h
  intro hadm
  simp [hadm p hp] at hrefused

/-! ### What an instruction may answer (10_state.md R42; 60_exceptions.md R351, R352, R355 to R357) -/

/-- From `s` to `u` nothing but free values was drawn. -/
abbrev OnlyDraws (s u : State) : Prop := Updates none none false none s u

theorem Updates.mem_of_no_store {vd : Option VReg} {gd : Option GReg} {cc : Bool} {s t : State}
    (h : Updates vd gd cc none s t) : t.mem = s.mem := by
  induction h with
  | refl => rfl
  | drawn _ ih | writeVR _ _ _ ih | writeGR _ _ _ ih | writeCC _ _ _ ih => exact ih
  | store _ _ hst => cases hst

/-- The state a store leaves that faults at position `p`: the bytes before it written as drawn (R357). -/
def State.partlyStored (u : State) (a : Addr) (bs : List Byte) (p : Nat) : State :=
  (u.withMem (u.mem.writeDrawn a u.draws (bs.take p))).drawnTimes p

/-- What `i`, begun in `s`, may answer: it completes only with legal codes and an admitted access, and it faults for an
illegal code, for the first refused byte of what it loads or stores, or for that of the operand of a false condition. -/
inductive Answers (i : Instr) (s : State) : Result → Prop
  | done (t : State) (hcode : illegalCode i = none)
      (hadm : ∀ dir a n, accessed i s = some (dir, a, n) → Admits s.mem dir a n) : Answers i s (.next t)
  | refused (e : Refusal) : Answers i s (.refused e)
  | specification {f : FieldName} {v : Nat} {u : State} (hcode : illegalCode i = some (f, v)) (hu : OnlyDraws s u) :
      Answers i s (.fault (.specification i.mnemonic f v i.length u))
  | load {a : Addr} {n p : Nat} {code : Option Nat} {u : State} (hcode : illegalCode i = none)
      (hacc : accessed i s = some (.read, a, n)) (hfirst : FirstRefused s.mem .read a n p code) (hu : OnlyDraws s u) :
      Answers i s (.fault (.access (byteAddr a p) .read code i.length u))
  | store {a : Addr} {bs : List Byte} {p : Nat} {code : Option Nat} {u : State} (hcode : illegalCode i = none)
      (hacc : accessed i s = some (.write, a, bs.length)) (hbytes : ∀ j (hj : j < bs.length), bs[j] = storedByte i s j)
      (hfirst : FirstRefused s.mem .write a bs.length p code) (hu : OnlyDraws s u) :
      Answers i s (.fault (.access (byteAddr a p) .write code i.length (u.partlyStored a bs p)))
  | falseCondition {dir : Direction} {a : Addr} {n p : Nat} {code : Option Nat} {u : State}
      (hcode : illegalCode i = none) (hacc : accessed i s = none) (hop : storageOperand i s = some (dir, a, n))
      (hmay : s.params.locFalseAccess = .may) (hfirst : FirstRefused s.mem dir a n p code) (hu : OnlyDraws s u) :
      Answers i s (.fault (.access (byteAddr a p) dir code i.length u))

section
variable {i : Instr} {s u : State} {m : Mnemonic}

/-! Each read leads to the answer of the rest of the instruction, or to a refusal. -/

theorem answers_readVR {r : VReg} {k : V128 → State → Result} (hk : Answers i s (k (u.vrValue r) (u.afterVR r))) :
    Answers i s (readVR u r k) := by
  unfold readVR
  split_ifs
  · exact hk
  · exact .refused _

theorem answers_readGR {r : GReg} {k : Word64 → State → Result} (hk : Answers i s (k (u.grValue r) (u.afterGR r))) :
    Answers i s (readGR u r k) := by
  unfold readGR
  split_ifs
  · exact hk
  · exact .refused _

theorem answers_readCC {k : CondCode → State → Result} (hk : Answers i s (k u.ccValue u.afterCC)) :
    Answers i s (readCC u k) := by
  unfold readCC
  split_ifs
  · exact hk
  · exact .refused _

theorem answers_readBase {b : GReg} {k : Word64 → State → Result} (hk : Answers i s (k (u.baseValue b) (u.afterBase b))) :
    Answers i s (readBase u b k) := by
  unfold readBase
  split_ifs
  · exact hk
  · exact .refused _

theorem answers_readTail {v1 : VReg} {len : Nat} {k : V128 → State → Result} (hu : OnlyDraws s u)
    (hk : ∀ x v, OnlyDraws s v → Answers i s (k x v)) : Answers i s (readTail u v1 len k) := by
  rw [readTail_eq]
  split_ifs
  · exact answers_readVR (hk _ _ (hu.afterVR v1))
  · exact hk _ _ hu

theorem answers_ite {c : Prop} [Decidable c] {o p : Result} (ho : c → Answers i s o) (hp : ¬ c → Answers i s p) :
    Answers i s (if c then o else p) := by
  split_ifs with hc
  · exact ho hc
  · exact hp hc

/-! What an instruction ends with. -/

theorem answers_next {t : State} (hcode : illegalCode i = none) (hacc : accessed i s = none) :
    Answers i s (.next t) :=
  .done t hcode fun dir a n h => by simp [hacc] at h

theorem answers_raiseSpecification {f : FieldName} {v : Nat} (hm : i.mnemonic = m)
    (hcode : illegalCode i = some (f, v)) (hu : OnlyDraws s u) : Answers i s (raiseSpecification u m f v) := by
  subst hm
  exact .specification hcode hu

theorem answers_memRead {a : Addr} {n : Nat} {t : List Byte → State} (hm : i.mnemonic = m)
    (hcode : illegalCode i = none) (hacc : accessed i s = some (.read, a, n)) (hu : OnlyDraws s u) :
    Answers i s (memRead u m a n fun bs => .next (t bs)) := by
  subst hm
  unfold memRead
  split
  next p code hsome =>
    rw [hu.mem_of_no_store] at hsome
    exact .load hcode hacc (Mem.firstRefused_eq_some.1 hsome) hu
  next hnone =>
    rw [hu.mem_of_no_store] at hnone
    refine .done _ hcode fun dir b l h => ?_
    cases hacc.symm.trans h
    exact Mem.firstRefused_eq_none.1 hnone

theorem answers_memWrite {a : Addr} {bs : List Byte} (hm : i.mnemonic = m) (hcode : illegalCode i = none)
    (hacc : accessed i s = some (.write, a, bs.length)) (hbytes : ∀ j (hj : j < bs.length), bs[j] = storedByte i s j)
    (hu : OnlyDraws s u) : Answers i s (memWrite u m a bs) := by
  subst hm
  unfold memWrite
  split
  next p code hsome =>
    rw [hu.mem_of_no_store] at hsome
    exact .store hcode hacc hbytes (Mem.firstRefused_eq_some.1 hsome) hu
  next hnone =>
    rw [hu.mem_of_no_store] at hnone
    refine .done _ hcode fun dir b l h => ?_
    cases hacc.symm.trans h
    exact Mem.firstRefused_eq_none.1 hnone

theorem answers_falseAccess {dir : Direction} {a : Addr} {n : Nat} (hm : i.mnemonic = m) (hcode : illegalCode i = none)
    (hacc : accessed i s = none) (hop : storageOperand i s = some (dir, a, n)) (hu : OnlyDraws s u) :
    Answers i s (falseAccess u m dir a n) := by
  subst hm
  cases ho : falseAccess u i.mnemonic dir a n with
  | next t => exact answers_next hcode hacc
  | refused e => exact .refused e
  | fault f =>
    obtain ⟨hmay, -, p, code, hsome, rfl⟩ := falseAccess_fault.1 ho
    rw [hu.mem_of_no_store] at hsome
    exact .falseCondition hcode hacc hop (hu.params ▸ hmay) (Mem.firstRefused_eq_some.1 hsome) hu.drawn

/-! Each shape of instruction, following its definition. -/

theorem vectorBinary_answers {v1 v2 v3 : VReg} {m4 : MField} {legal : Bool} {f : V128 → V128 → V128}
    (hm : i.mnemonic = m) (hcode : illegalCode i = if legal then none else some (.m4, m4.toNat))
    (hacc : accessed i s = none) : Answers i s (vectorBinary s m v1 v2 v3 m4 legal f) :=
  answers_readVR <| answers_readVR <| answers_ite
    (fun h => answers_next (by rw [hcode, if_pos h]) hacc)
    (fun h => answers_raiseSpecification hm (by rw [hcode, if_neg h]) ((Updates.refl.afterVR v2).afterVR v3))

theorem laneBinary_answers {v1 v2 v3 : VReg} {m4 : MField} {maxCode : Nat} {op : Int → Int → Int} {sg : Sign}
    {rg : ElementRange} {ow : OutWidth} (hm : i.mnemonic = m)
    (hcode : illegalCode i = if m4.toNat > maxCode then some (.m4, m4.toNat) else none) (hacc : accessed i s = none) :
    Answers i s (laneBinary s m v1 v2 v3 m4 maxCode op sg rg ow) :=
  vectorBinary_answers hm (by rw [hcode, ← ite_not]; simp) hacc

theorem vectorLogic_answers {v1 v2 v3 : VReg} {f : V128 → V128 → V128} (hcode : illegalCode i = none)
    (hacc : accessed i s = none) : Answers i s (vectorLogic s v1 v2 v3 f) :=
  answers_readVR <| answers_readVR <| answers_next hcode hacc

theorem vectorUnary_answers {v1 v2 : VReg} {m3 : MField} {maxCode : Nat} {f : V128 → V128} (hm : i.mnemonic = m)
    (hcode : illegalCode i = if m3.toNat > maxCode then some (.m3, m3.toNat) else none) (hacc : accessed i s = none) :
    Answers i s (vectorUnary s m v1 v2 m3 maxCode f) :=
  answers_readVR <| answers_ite
    (fun h => answers_next (by rw [hcode, if_neg (Nat.not_lt.2 h)]) hacc)
    (fun h => answers_raiseSpecification hm (by rw [hcode, if_pos (Nat.lt_of_not_le h)]) (Updates.refl.afterVR v2))

theorem unpack_answers {v1 v2 : VReg} {m3 : MField} {sg : Sign} {rg : ElementRange} (hm : i.mnemonic = m)
    (hcode : illegalCode i = if m3.toNat > 2 then some (.m3, m3.toNat) else none) (hacc : accessed i s = none) :
    Answers i s (unpack s m v1 v2 m3 sg rg) :=
  vectorUnary_answers hm hcode hacc

theorem vectorTernary_answers {v1 v2 v3 v4 : VReg} {f : V128 → V128 → V128 → V128} (hcode : illegalCode i = none)
    (hacc : accessed i s = none) : Answers i s (vectorTernary s v1 v2 v3 v4 f) :=
  answers_readVR <| answers_readVR <| answers_readVR <| answers_next hcode hacc

theorem packSaturate_answers {v1 v2 v3 : VReg} {m4 m5 : MField} {src dst : Sign} (hm : i.mnemonic = m)
    (hcode : illegalCode i = if packLegal m4 then none else some (.m4, m4.toNat)) (hacc : accessed i s = none) :
    Answers i s (packSaturate s m v1 v2 v3 m4 m5 src dst) :=
  answers_readVR <| answers_readVR <| answers_ite
    (fun h => answers_next (by rw [hcode, if_pos h]) hacc)
    (fun h => answers_raiseSpecification hm (by rw [hcode, if_neg h]) ((Updates.refl.afterVR v2).afterVR v3))

theorem compareHigh_answers {v1 v2 v3 : VReg} {m4 m5 : MField} {sg : Sign} (hm : i.mnemonic = m)
    (hcode : illegalCode i = if m4.toNat > 3 then some (.m4, m4.toNat) else none) (hacc : accessed i s = none) :
    Answers i s (compareHigh s m v1 v2 v3 m4 m5 sg) :=
  answers_readVR <| answers_readVR <| answers_ite
    (fun h => answers_next (by rw [hcode, if_neg (Nat.not_lt.2 h)]) hacc)
    (fun h => answers_raiseSpecification hm (by rw [hcode, if_pos (Nat.lt_of_not_le h)])
      ((Updates.refl.afterVR v2).afterVR v3))

theorem execVrep_answers {v1 v3 : VReg} {i2 : BitVec 16} {m4 : MField} :
    Answers (.vrep v1 v3 i2 m4) s (execVrep v1 v3 i2 m4 s) :=
  answers_readVR <| answers_ite
    (fun h => answers_raiseSpecification rfl (by simp [illegalCode, h]) (Updates.refl.afterVR v3)) fun h =>
    answers_ite
      (fun h' => answers_raiseSpecification rfl (by simp [illegalCode, h, h']) (Updates.refl.afterVR v3))
      (fun h' => answers_next (by simp [illegalCode, h, h']) rfl)

theorem execVrepi_answers {v1 : VReg} {i2 : BitVec 16} {m3 : MField} :
    Answers (.vrepi v1 i2 m3) s (execVrepi v1 i2 m3 s) :=
  answers_ite
    (fun h => answers_raiseSpecification rfl (by simp [illegalCode, h]) Updates.refl)
    (fun h => answers_next (by simp [illegalCode, h]) rfl)

theorem execLcbb_answers {r1 x2 b2 : GReg} {d2 : BitVec 12} {m3 : MField} :
    Answers (.lcbb r1 d2 x2 b2 m3) s (execLcbb r1 d2 x2 b2 m3 s) :=
  answers_readBase <| answers_readBase <| answers_readGR <| answers_ite
    (fun h => answers_raiseSpecification rfl (by simp [illegalCode, h])
      (((Updates.refl.afterBase x2).afterBase b2).afterGR r1))
    (fun h => answers_next (by simp [illegalCode, h]) rfl)

theorem execLocr_answers {r1 r2 : GReg} {m3 : MField} : Answers (.locr r1 r2 m3) s (execLocr r1 r2 m3 s) :=
  answers_readCC <| answers_ite (fun _ => answers_readGR <| answers_readGR <| answers_next rfl rfl)
    (fun _ => answers_next rfl rfl)

theorem execLocgr_answers {r1 r2 : GReg} {m3 : MField} : Answers (.locgr r1 r2 m3) s (execLocgr r1 r2 m3 s) :=
  answers_readCC <| answers_ite (fun _ => answers_readGR <| answers_next rfl rfl) (fun _ => answers_next rfl rfl)

/-! The loads and stores. -/

section
variable {w : Nat} {v1 v2 : VReg} {d2 : BitVec 12} {b2 : GReg} {m3 : MField} {ea : Addr} (hm : i.mnemonic = m)
  (hcode : illegalCode i = if elemCount w ≤ m3.toNat then some (.m3, m3.toNat) else none)
  (hea : ea = vrvAddress ((s.afterVR v1).baseValue b2) d2 (((s.afterVR v1).afterBase b2).vrValue v2) w m3)
include hm hcode hea

theorem gather_answers (hacc : accessed i s = some (.read, ea, w)) : Answers i s (gather s m w v1 d2 v2 b2 m3) := by
  subst hea
  have hread : OnlyDraws s (((s.afterVR v1).afterBase b2).afterVR v2) :=
    ((Updates.refl.afterVR v1).afterBase b2).afterVR v2
  exact answers_readVR <| answers_readBase <| answers_readVR <| answers_ite
    (fun h => answers_raiseSpecification hm (by rw [hcode, if_pos h]) hread)
    (fun h => answers_memRead hm (by rw [hcode, if_neg h]) hacc hread)

theorem scatter_answers (hacc : accessed i s = some (.write, ea, w))
    (hbytes : ∀ j, storedByte i s j = elem (s.vrValue v1) 1 (w * m3.toNat + j)) :
    Answers i s (scatter s m w v1 d2 v2 b2 m3) := by
  subst hea
  have hread : OnlyDraws s (((s.afterVR v1).afterBase b2).afterVR v2) :=
    ((Updates.refl.afterVR v1).afterBase b2).afterVR v2
  refine answers_readVR <| answers_readBase <| answers_readVR <| answers_ite
    (fun h => answers_raiseSpecification hm (by rw [hcode, if_pos h]) hread) fun h =>
    answers_memWrite hm (by rw [hcode, if_neg h]) (by rwa [length_beBytes]) (fun j hj => ?_) hread
  have hj' : j < w := by simpa using hj
  rw [getElem_beBytes, hbytes, elem_byte _ _ _ hj' (mul_succ_le_of_lt_elemCount (Nat.lt_of_not_le h))]

end

theorem execVll_answers {v1 : VReg} {r3 b2 : GReg} {d2 : BitVec 12} :
    Answers (.vll v1 r3 d2 b2) s (execVll v1 r3 d2 b2 s) :=
  answers_readGR <| answers_readBase <| answers_readTail ((Updates.refl.afterGR r3).afterBase b2) fun _ _ hv =>
    answers_memRead rfl rfl rfl hv

theorem execVstl_answers {v1 : VReg} {r3 b2 : GReg} {d2 : BitVec 12} :
    Answers (.vstl v1 r3 d2 b2) s (execVstl v1 r3 d2 b2 s) :=
  answers_readGR <| answers_readBase <| answers_readVR <|
    answers_memWrite rfl rfl (by simp [accessed, loadedFrom, storedTo]) (fun j hj => by simp [storedByte])
      (((Updates.refl.afterGR r3).afterBase b2).afterVR v1)

section
variable {r1 b2 : GReg} {d2 : BitVec 20} {m3 : MField}

theorem onlyDraws_base_cc : OnlyDraws s (s.afterBase b2).afterCC := (Updates.refl.afterBase b2).afterCC

theorem execLoc_answers : Answers (.loc r1 d2 b2 m3) s (execLoc r1 d2 b2 m3 s) :=
  answers_readBase <| answers_readCC <| answers_ite
    (fun hc => answers_readGR <|
      answers_memRead rfl rfl (by simp [accessed, loadedFrom, hc]) (onlyDraws_base_cc.afterGR r1))
    (fun hc => answers_falseAccess rfl rfl (by simp [accessed, loadedFrom, storedTo, hc]) rfl onlyDraws_base_cc)

theorem execLocg_answers : Answers (.locg r1 d2 b2 m3) s (execLocg r1 d2 b2 m3 s) :=
  answers_readBase <| answers_readCC <| answers_ite
    (fun hc => answers_memRead rfl rfl (by simp [accessed, loadedFrom, hc]) onlyDraws_base_cc)
    (fun hc => answers_falseAccess rfl rfl (by simp [accessed, loadedFrom, storedTo, hc]) rfl onlyDraws_base_cc)

theorem execStoc_answers : Answers (.stoc r1 d2 b2 m3) s (execStoc r1 d2 b2 m3 s) := by
  refine answers_readBase <| answers_readCC <| answers_ite
    (fun hc => answers_readGR <| answers_memWrite rfl rfl (by simp [accessed, loadedFrom, storedTo, hc])
      (fun j hj => ?_) (onlyDraws_base_cc.afterGR r1))
    (fun hc => answers_falseAccess rfl rfl (by simp [accessed, loadedFrom, storedTo, hc]) rfl onlyDraws_base_cc)
  rw [getElem_beBytes]
  exact extractLsb'_low32 _ (by omega)

theorem execStocg_answers : Answers (.stocg r1 d2 b2 m3) s (execStocg r1 d2 b2 m3 s) :=
  answers_readBase <| answers_readCC <| answers_ite
    (fun hc => answers_readGR <| answers_memWrite rfl rfl (by simp [accessed, loadedFrom, storedTo, hc])
      (fun j hj => getElem_beBytes _ _ j hj) (onlyDraws_base_cc.afterGR r1))
    (fun hc => answers_falseAccess rfl rfl (by simp [accessed, loadedFrom, storedTo, hc]) rfl onlyDraws_base_cc)

end

end

/-- The packs' table row of R351 lists the codes that `packLegal` leaves out. -/
theorem ite_packLegal {α : Type} (m4 : MField) (x y : α) :
    (if m4.toNat = 0 ∨ m4.toNat > 3 then x else y) = if packLegal m4 then y else x := by
  rw [← ite_not]
  congr 1
  simp [packLegal]
  omega

theorem exec_answers (i : Instr) (s : State) : Answers i s (exec i s) := by
  cases i with dsimp only [exec]
  | va | vs | vavg | vavgl | vmx | vmxl | vmn | vmnl | vml | vmh | vmlh | vme | vmle | vmo | vmlo =>
    exact laneBinary_answers rfl rfl rfl
  | vpk => exact vectorBinary_answers rfl (ite_packLegal ..) rfl
  | vmrh v1 v2 v3 m4 | vmrl v1 v2 v3 m4 =>
    exact vectorBinary_answers rfl (by rw [illegalCode, ← ite_not]; simp) rfl
  | vn | vnc | vo | vno | vx | vpdi => exact vectorLogic_answers rfl rfl
  | vlc | vlp | vclz | vctz => exact vectorUnary_answers rfl rfl rfl
  | vpopct => exact vectorUnary_answers rfl (by simp only [illegalCode, Nat.pos_iff_ne_zero, gt_iff_lt]) rfl
  | vuph | vupl | vuplh | vupll => exact unpack_answers rfl rfl rfl
  | vpks | vpkls => exact packSaturate_answers rfl (ite_packLegal ..) rfl
  | vch | vchl => exact compareHigh_answers rfl rfl rfl
  | vperm | vsel => exact vectorTernary_answers rfl rfl
  | vrep => exact execVrep_answers
  | vrepi => exact execVrepi_answers
  | vgef | vgeg => exact gather_answers rfl rfl rfl rfl
  | vscef | vsceg => exact scatter_answers rfl rfl rfl rfl fun _ => rfl
  | vll => exact execVll_answers
  | vstl => exact execVstl_answers
  | lcbb => exact execLcbb_answers
  | locr => exact execLocr_answers
  | locgr => exact execLocgr_answers
  | loc => exact execLoc_answers
  | locg => exact execLocg_answers
  | stoc => exact execStoc_answers
  | stocg => exact execStocg_answers

/-! ### SPECIFICATION (60_exceptions.md R351) -/

theorem exec_ne_refused {i : Instr} {s : State} (hread : s.drawsUnwritten = true ∨ ¬ ReadsUnwritten i s) (e : Refusal) :
    exec i s ≠ .refused e := by
  intro h
  obtain ⟨-, hfault, hlacks⟩ := exec_refused.1 h
  rcases hread with hdraws | hheld
  · simp [hfault] at hdraws
  · exact hheld hlacks

theorem Answers.specification_of_illegalCode {i : Instr} {s : State} {o : Result} {f : FieldName} {v : Nat}
    (h : Answers i s o) (hread : ∀ e, o ≠ .refused e) (hillegal : illegalCode i = some (f, v)) :
    ∃ u, o = .fault (.specification i.mnemonic f v i.length u) ∧ OnlyDraws s u := by
  cases h with
  | done t hcode | load hcode | store hcode | falseCondition hcode => simp [hcode] at hillegal
  | refused e => exact absurd rfl (hread e)
  | specification hcode hu =>
    cases hcode.symm.trans hillegal
    exact ⟨_, rfl, hu⟩

theorem exec_specification {i : Instr} {s u : State} {m : Mnemonic} {f : FieldName} {v n : Nat}
    (h : exec i s = .fault (.specification m f v n u)) : illegalCode i = some (f, v) ∧ OnlyDraws s u := by
  have hans := exec_answers i s
  rw [h] at hans
  cases hans with
  | specification hcode hu => exact ⟨hcode, hu⟩

/-- Settles O40: an instruction that is not refused completes or raises ACCESS only with legal codes (`exec_answers`). -/
theorem specificationExactly : Obligations.SpecificationExactly := by
  intro i s hread
  refine ⟨fun f v hillegal => ?_, fun hlegal m f v n u h => ?_⟩
  · obtain ⟨u, hexec, hu⟩ := (exec_answers i s).specification_of_illegalCode (exec_ne_refused hread) hillegal
    exact ⟨u, hexec, hu.changesOnly (by simp)⟩
  · obtain ⟨hillegal, -⟩ := exec_specification h
    simp [hlegal] at hillegal

/-! ### ACCESS (60_exceptions.md R352, R354, R355) -/

theorem Answers.access_of_firstRefused {i : Instr} {s : State} {o : Result} {dir : Direction} {a : Addr} {n p : Nat}
    {code : Option Nat} (h : Answers i s o) (hread : ∀ e, o ≠ .refused e) (hlegal : illegalCode i = none)
    (haccessed : accessed i s = some (dir, a, n)) (hp : FirstRefused s.mem dir a n p code) :
    ∃ u, o = .fault (.access (byteAddr a p) dir code i.length u) := by
  cases h with
  | done t _ hadm => exact absurd (hadm _ _ _ haccessed) hp.not_admits
  | refused e => exact absurd rfl (hread e)
  | specification hcode => simp [hlegal] at hcode
  | load _ hacc hfirst | store _ hacc _ hfirst =>
    cases hacc.symm.trans haccessed
    obtain ⟨rfl, rfl⟩ := firstRefused_unique hfirst hp
    exact ⟨_, rfl⟩
  | falseCondition _ hacc => simp [hacc] at haccessed

theorem Answers.access_operand {i : Instr} {s u : State} {a : Addr} {dir : Direction} {code : Option Nat} {len : Nat}
    (h : Answers i s (.fault (.access a dir code len u))) :
    len = i.length ∧ (accessed i s = none → s.params.locFalseAccess = .may) ∧
      ∃ b n p, storageOperand i s = some (dir, b, n) ∧ FirstRefused s.mem dir b n p code ∧ a = byteAddr b p := by
  cases h with
  | load _ hacc hfirst | store _ hacc _ hfirst =>
    exact ⟨rfl, by simp [hacc], _, _, _, storageOperand_of_accessed hacc, hfirst, rfl⟩
  | falseCondition _ _ hop hmay hfirst => exact ⟨rfl, fun _ => hmay, _, _, _, hop, hfirst, rfl⟩

/-- Settles O41: an instruction that is not refused and has legal codes completes only where its access is admitted, and each
of its three ACCESS answers is for the first refused byte of its operand (`exec_answers`). -/
theorem accessExactly : Obligations.AccessExactly := by
  intro i s
  refine ⟨fun hread hlegal => ⟨fun a n p code hload hp => ?load, fun a n p code hstore hp => ?store⟩,
    fun a dir code len u h => ?raised⟩
  case load =>
    exact (exec_answers i s).access_of_firstRefused (exec_ne_refused hread) hlegal (accessed_of_loadedFrom hload) hp
  case store =>
    exact (exec_answers i s).access_of_firstRefused (exec_ne_refused hread) hlegal (accessed_of_storedTo hstore) hp
  case raised =>
    obtain ⟨hlen, hmay, b, n, p, hop, hfirst, ha⟩ := (h ▸ exec_answers i s).access_operand
    exact ⟨accessesMemory_of_storageOperand hop, hlen, fun hload hstore => hmay (accessed_eq_none.2 ⟨hload, hstore⟩),
      b, n, p, hop, hfirst, ha⟩

/-! ### What a fault leaves (60_exceptions.md R356, R357) -/

section
variable {s u : State} {a : Addr} {bs : List Byte} {p : Nat} (hu : OnlyDraws s u) (hwf : s.wf = true)
include hu hwf

theorem partlyStored_changesOnly : ChangesOnly s (u.partlyStored a bs p) none none false (some (a, p)) := by
  refine ⟨fun _ => hu.vr_of_ne, fun _ => hu.gr_of_ne, hu.cc_of_false, fun c hc => ?bytes, ?refusals, hu.params, hu.stream,
    hu.ia⟩
  case bytes =>
    have hout : ∀ j, j < (bs.take p).length → c ≠ byteAddr a j := fun j hj => hc a p rfl j (by simp at hj; omega)
    exact (Mem.byteAt_writeDrawn_outside (hu.wf hwf) a _ _ c hout).trans (by rw [hu.mem_of_no_store])
  case refusals => exact (Mem.writeDrawn_refusals ..).trans hu.refusals

theorem partlyStored_byteAt {j : Nat} (hp : p ≤ bs.length) (hlen : bs.length ≤ 16) (hj : j < p) :
    (u.partlyStored a bs p).mem.byteAt (byteAddr a j) = bs[j] ∨
      (u.partlyStored a bs p).mem.byteAt (byteAddr a j) = s.mem.byteAt (byteAddr a j) := by
  have htake : (bs.take p).length = p := by simpa using hp
  have hbyte := Mem.byteAt_writeDrawn_inside (hu.wf hwf) a u.draws (bs.take p) (by omega) j (by omega)
  rw [List.getElem_take, hu.mem_of_no_store] at hbyte
  rw [State.partlyStored, drawnTimes_mem, withMem_mem, hu.mem_of_no_store, hbyte]
  split
  · exact .inl rfl
  · exact .inr rfl

end

/-- Settles O43: of the three ACCESS answers only a store's is for an access that writes, and its bytes before the refused one
are the store's, each drawn as written or not. -/
theorem partialStoreBeforeRefusedByte : Obligations.PartialStoreBeforeRefusedByte := by
  intro i s u a b code len n hwf h hstored
  have haccessed := accessed_of_storedTo hstored
  have hans := exec_answers i s
  rw [h] at hans
  cases hans with
  | falseCondition _ hacc => simp [hacc] at haccessed
  | @store _ bs p _ _ _ hacc hbytes hfirst hu =>
    cases hacc.symm.trans haccessed
    have hp : p ≤ bs.length := Nat.le_of_lt hfirst.1
    refine ⟨p, hfirst, rfl, partlyStored_changesOnly hu hwf, fun j hj => ?_⟩
    rw [← hbytes j (by omega)]
    exact partlyStored_byteAt hu hwf hp (storedTo_length_le hstored) hj

theorem exec_access_read {i : Instr} {s u : State} {a : Addr} {code : Option Nat} {n : Nat}
    (h : exec i s = .fault (.access a .read code n u)) : OnlyDraws s u := by
  have hans := exec_answers i s
  rw [h] at hans
  cases hans with
  | load _ _ _ hu | falseCondition _ _ _ _ _ hu => exact hu

theorem exec_access_write_of_no_store {i : Instr} {s u : State} {a : Addr} {code : Option Nat} {n : Nat}
    (h : exec i s = .fault (.access a .write code n u)) (hstored : storedTo i s = none) : OnlyDraws s u := by
  have hans := exec_answers i s
  rw [h] at hans
  cases hans with
  | store _ hacc => simp [storedTo_of_accessed hacc] at hstored
  | falseCondition _ _ _ _ _ hu => exact hu

/-- Bytes that may change may also be taken as among more bytes. -/
theorem ChangesOnly.mono_stored {s t : State} {vd : Option VReg} {gd : Option GReg} {cc : Bool} {a : Addr} {p n : Nat}
    (h : ChangesOnly s t vd gd cc (some (a, p))) (hle : p ≤ n) : ChangesOnly s t vd gd cc (some (a, n)) := by
  obtain ⟨hvr, hgr, hcc, hmem, hrest⟩ := h
  refine ⟨hvr, hgr, hcc, fun c hc => hmem c fun b q hb j hj => ?_, hrest⟩
  cases hb
  exact hc a n rfl j (by omega)

theorem outsideOf_byteAddr {a : Addr} {p j : Nat} (hj : p ≤ j) (hlt : j < 2 ^ 64) :
    OutsideOf (some (a, p)) (byteAddr a j) := by
  intro b q hb k hk heq
  cases hb
  have hjk : j = k := byteAddr_inj hlt (by omega) heq
  omega

/-- Settles O42: SPECIFICATION, ACCESS on a read and that of a false condition leave only draws; a store's leaves what O43
says, and the bytes from the refused one on are outside of what it changes. -/
theorem faultsSuppress : Obligations.FaultsSuppress := by
  intro i s hwf
  refine ⟨fun m f v n u h => ?specification, fun a code n u h => (exec_access_read h).changesOnly (by simp),
    fun a code n u h => ?write⟩
  case specification =>
    obtain ⟨-, hu⟩ := exec_specification h
    exact hu.changesOnly (by simp)
  case write =>
    cases hstored : storedTo i s with
    | none => exact ⟨(exec_access_write_of_no_store h hstored).changesOnly (by simp), fun b len hb => by cases hb⟩
    | some x =>
      obtain ⟨b, len⟩ := x
      obtain ⟨p, hfirst, -, hframe, hbefore⟩ := partialStoreBeforeRefusedByte i s u a b code n len hwf h hstored
      refine ⟨hframe.mono_stored (Nat.le_of_lt hfirst.1), fun b' len' hb j hj => ?_⟩
      cases hb
      rcases Nat.lt_or_ge j p with hjp | hpj
      · exact hbefore j hjp
      · obtain ⟨-, -, -, hmem, -⟩ := hframe
        have hlen := storedTo_length_le hstored
        exact .inr (hmem _ (outsideOf_byteAddr hpj (by omega)))

end Sys2Proof.Machine

/-! PROOFS. The canonical form of memory at reset (O49), from which O48 carries it along every step (70_reset_and_hazards.md
R390; log entry 3). -/

namespace Sys2Proof.Machine

/-- The canonical form is about listed cells only: what memory refuses plays no part. -/
theorem Mem.wf_of_cells_eq_nil {m : Mem} (h : m.cells = []) : m.wf = true := by
  rw [Mem.wf, h, cellsWf]

/-- Settles O49: at reset memory lists no cell. -/
theorem resetMemoryCanonical : Obligations.ResetMemoryCanonical :=
  Mem.wf_of_cells_eq_nil (m := State.reset.mem) rfl

end Sys2Proof.Machine
